-- ==== Sys2Proof/Word.lean ====
section
/-! DEFINITION. The word types of the LMC: bus words, bytes, Samples, register offsets (00_scope.md R15, R17). -/

namespace Sys2Proof

/-- A 32-bit host bus word (20_memory.md R205). -/
abbrev Word := BitVec 32

/-- A byte of a stream or a buffer (20_memory.md R201). -/
abbrev Byte := BitVec 8

/-- A Sample, an s16 in two's complement (00_scope.md R17). -/
abbrev Sample := BitVec 16

/-- A 12-bit byte offset in the host register space (20_memory.md R201, R203). -/
abbrev Offset := BitVec 12

/-- A Window: the Samples in time order, Sample 0 first (30_encoding.md R302). -/
abbrev Window := List Sample

/-- A Multibit: one bit per carrier channel, channel 0 first (42_bit_codec.md R451). -/
abbrev Multibit := List Bool

end Sys2Proof
end

