-- ==== Sys2Proof/Syntax.lean ====
section
/-! DEFINITION. The LMC's instructions: the two host commands, one constructor per row of spec/opcode_table.json
(30_encoding.md R321). The other transactions (bus reads and writes, AUDIO_IN, AUDIO_OUT, reset) are turns of agents,
`Machine.Action`. -/

namespace Sys2Proof

/-- A command issued by a write to CMD. -/
inductive Instr where
  /-- TRANSMIT size: send the payload TXBUF[0..size-1] as one Frame (45_transmitter.md R601). -/
  | transmit (size : Nat)
  /-- RECEIVE: advance the receiver on the Samples of RXS (46_receiver.md R651). -/
  | receive
  deriving DecidableEq, Repr

end Sys2Proof
end

