-- ==== Sys2Proof/WellFormed.lean ====
section
/-! DEFINITION. Well-formed commands (30_encoding.md R322): the bound on TRANSMIT's operand. -/

namespace Sys2Proof

/-- TRANSMIT's size is 0 to 255; RECEIVE has no operand (30_encoding.md R322). -/
def Instr.wf : Instr → Bool
  | .transmit size => decide (size ≤ 255)
  | .receive => true

end Sys2Proof
end

