-- ==== Sys2Proof/Decode.lean ====
section
/-! DEFINITION. The CMD word (30_encoding.md R320 to R324): decoder, encoder, the opcode table's rows, the listing
form of R326, and the host's entry `decodeTableWord`. -/

namespace Sys2Proof

/-- Why a CMD word is no command. Every one of these makes the word illegal (30_encoding.md R323). -/
inductive DecodeError where
  /-- A bit of 7:4 or 31:16 is 1 (R320). -/
  | reservedBits
  /-- OP is neither 1 nor 2 (R321). -/
  | reservedOp (op : BitVec 4)
  /-- RECEIVE with SIZE other than 0 (R320). -/
  | receiveWithSize (size : Byte)
  /-- Not the four bytes of one CMD word. -/
  | notOneWord
  deriving DecidableEq, Repr

/-- OP, bits 3:0 (30_encoding.md R320). -/
def opField (w : Word) : BitVec 4 := w.extractLsb' 0 4

/-- SIZE, bits 15:8 (30_encoding.md R320). -/
def sizeField (w : Word) : Byte := w.extractLsb' 8 8

/-- The reserved bits 7:4 and 31:16 (30_encoding.md R320). -/
def reservedMask : Word := 0xFFFF00F0#32

/-- OP of TRANSMIT (30_encoding.md R321). -/
def opTransmit : BitVec 4 := 1#4

/-- OP of RECEIVE (30_encoding.md R321). -/
def opReceive : BitVec 4 := 2#4

/-- The decoder of CMD words (30_encoding.md R320 to R323). -/
def decode (w : Word) : Except DecodeError Instr :=
  if w &&& reservedMask ≠ 0#32 then .error .reservedBits
  else if opField w = opTransmit then .ok (.transmit (sizeField w).toNat)
  else if opField w = opReceive then
    if sizeField w = 0#8 then .ok .receive else .error (.receiveWithSize (sizeField w))
  else .error (.reservedOp (opField w))

/-- `legal(w)` (30_encoding.md R323): the word decodes. -/
def legal (w : Word) : Bool := (decode w).isOk

/-- The word of four bytes, the byte at the lowest offset in bits 7:0 (20_memory.md R204). -/
def wordOfBytes (b0 b1 b2 b3 : Byte) : Word := b3 ++ b2 ++ b1 ++ b0

/-- The decoder on bytes, total: four bytes are one CMD word, every other length is rejected by name. -/
def decodeBytes : List Byte → Except DecodeError Instr
  | [b0, b1, b2, b3] => decode (wordOfBytes b0 b1 b2 b3)
  | _ => .error .notOneWord

/-- The CMD word of a command (30_encoding.md R320, R321): OP, and TRANSMIT's SIZE in bits 15:8. -/
def encode : Instr → Word
  | .transmit size => 0#16 ++ BitVec.ofNat 8 size ++ 0#4 ++ opTransmit
  | .receive => 0#16 ++ 0#8 ++ 0#4 ++ opReceive

/-- A row of the opcode map (30_encoding.md R321): a word is the row's command where `word &&& mask = pattern`. -/
structure OpcodeRow where
  mnemonic : String
  pattern : Word
  mask : Word
  deriving DecidableEq, Repr

/-- The opcode map (30_encoding.md R321, spec/opcode_table.json). -/
def opcodeTable : List OpcodeRow :=
  [⟨"TRANSMIT", 0x00000001#32, 0xFFFF00FF#32⟩, ⟨"RECEIVE", 0x00000002#32, 0xFFFFFFFF#32⟩]

/-- The rows a word matches. -/
def matchingRows (w : Word) : List OpcodeRow := opcodeTable.filter (fun r => w &&& r.mask == r.pattern)

/-- One hexadecimal digit, in capitals. -/
def hexDigit (n : BitVec 4) : Char := "0123456789ABCDEF".toList.getD n.toNat '0'

/-- Eight hexadecimal digits, high digit first. -/
def hexWord (w : Word) : String :=
  String.ofList ((List.range 8).map fun i => hexDigit (w.extractLsb' (4 * (7 - i)) 4))

/-- The listing of a CMD word (30_encoding.md R326): `TRANSMIT <size>`, `RECEIVE`, or `.word 0x<8 hex digits>`. -/
def listing (w : Word) : String :=
  match decode w with
  | .ok (.transmit size) => "TRANSMIT " ++ toString size
  | .ok .receive => "RECEIVE"
  | .error _ => ".word 0x" ++ hexWord w

/-- The word whose bits are `w`, those from `nbits` up being 0. -/
def tableWord (nbits w : Nat) : Word := BitVec.ofNat 32 (w % 2 ^ nbits)

/-- The instruction the decoder reads from the table's bits `w`. A CMD word is one 32-bit bus transaction, so its bits
are the table's bits (30_encoding.md R320). -/
def decodeTableWord (nbits w : Nat) : Option Instr := (decode (tableWord nbits w)).toOption

end Sys2Proof
end

