-- ==== Sys2Proof/Config.lean ====
section
/-! DEFINITION. What an implementation fixes: the parameters of a build (00_scope.md R11) as plain data, the two
fixed parameters SB and TW_ONE, the sizes the register map fixes, and the digest functions a build may name. -/

namespace Sys2Proof

namespace Config

/-- SB, the bytes of a Sample (00_scope.md R11, fixed). -/
def sampleBytes : Nat := 2

/-- TW_ONE, the twiddle ROM's unit (00_scope.md R11, fixed: 2^15 - 1). -/
def twOne : Nat := 32767

/-- The digest functions other than MD5, one for each number. Uninterpreted, so nothing can be proved of the value
of one: a statement about every build holds whichever total function the build's DIGEST is (44_framing.md R553,
93_implementation_defined.md I10). See notes/assumptions/6.md. -/
opaque otherDigest : Nat → List Byte → Vector Byte 16

/-- What a count or size register reads for a number of bytes that 32 bits cannot hold. Uninterpreted: 00_scope.md R11
sets the capacities no upper bound, 10_state.md R115 makes the registers 32 bits wide, and no rule states the value read
there. DESIGN CHOICE, see notes/assumptions/21.md. -/
opaque wideCount : Nat → Word

end Config

/-- Which content digest a build has (00_scope.md R11, parameter DIGEST): the reference build's MD5, or any other
total function, named by a number. -/
inductive DigestFn where
  | md5
  | other (id : Nat)
  deriving DecidableEq, Repr

/-- A build: one value of each parameter of 00_scope.md R11. SB and TW_ONE are fixed (`Config`); P_AUDIO_CHUNK may
vary per transaction and is the length of each transaction's data. -/
structure Build where
  /-- P_SAMPLE_RATE, Hz; no rule reads it. -/
  sampleRate : Nat
  /-- N, the Window length in Samples. -/
  N : Nat
  /-- F, the number of carrier channels. -/
  F : Nat
  /-- FREQ[0..F-1], the carrier bin of each channel. -/
  freq : List Nat
  /-- COSQ[0..N-1], twiddle ROM. -/
  cosq : List Int
  /-- SINQ[0..N-1], twiddle ROM. -/
  sinq : List Int
  /-- ENC_AMP, the encoder's amplitude per active carrier. -/
  encAmp : Nat
  /-- TRIGGER_LEVEL. -/
  triggerLevel : Nat
  /-- SYNC_RATIO = SP/SQ. -/
  sp : Nat
  sq : Nat
  /-- DECODE_RATIO = DP/DQ. -/
  dp : Nat
  dq : Nat
  /-- NOISE_RATIO = NP/NQ. -/
  np : Nat
  nq : Nat
  /-- RXS_BYTES, the capacity of RXS. -/
  rxsBytes : Nat
  /-- TXS_BYTES, the capacity of TXS. -/
  txsBytes : Nat
  /-- DIGEST. -/
  digest : DigestFn
  deriving DecidableEq, Repr

end Sys2Proof
end

