-- ==== Sys2Proof/Machine/RomCheck.lean ====
section
/-! DEFINITION. The check that a twiddle ROM entry is the one the formula of 42_bit_codec.md R452 gives, in exact integer
arithmetic: a cosine is compared with a fraction by counting the turns of the fraction's angle. That it decides the formula
is proved in Laws/Rom.lean. -/

namespace Sys2Proof.Machine

/-- A multiple of an angle: its whole turns, and the direction of the rest as the point (x, y * √D), of any length. -/
structure Winding where
  turns : Nat
  x : Int
  y : Int
  deriving DecidableEq, Repr

/-- The rest is half a turn or more. -/
def Winding.pastHalf (w : Winding) : Bool := decide (w.y < 0) || (decide (w.y = 0) && decide (w.x < 0))

/-- The rest is no turn at all. -/
def Winding.whole (w : Winding) : Bool := decide (w.y = 0) && decide (0 < w.x)

/-- Twice the multiple. -/
def Winding.double (D : Int) (w : Winding) : Winding where
  turns := 2 * w.turns + (if w.pastHalf then 1 else 0)
  x := w.x * w.x - D * (w.y * w.y)
  y := 2 * (w.x * w.y)

/-- The multiple and once more the angle of the point (a, √D), which is under half a turn. -/
def Winding.advance (a D : Int) (w : Winding) : Winding :=
  let v : Winding := ⟨w.turns, a * w.x - D * w.y, w.x + a * w.y⟩
  if w.pastHalf && !v.pastHalf then { v with turns := w.turns + 1 } else v

/-- `n` times the angle of the point (a, √D), by doubling; `fuel` is at least `n`. -/
def winding (a D : Int) : Nat → Nat → Winding
  | 0, _ => ⟨0, 1, 0⟩
  | fuel + 1, n =>
    if n = 0 then ⟨0, 1, 0⟩
    else
      let w := (winding a D fuel (n / 2)).double D
      if n % 2 = 1 then w.advance a D else w

/-- 2 * TW_ONE: the midpoints between ROM entries are odd multiples of its inverse. -/
def midpointUnit : Int := 2 * Config.twOne

/-- cos(2*pi * num / den) compared with the midpoint `a` / (2 * TW_ONE), `a` odd: of the two angles up to half a turn, the
smaller has the larger cosine, and `num` / `den` of a turn, in lowest terms, is compared with the midpoint's angle that
many times over. -/
def compareCos (num den : Nat) (a : Int) : Ordering :=
  if midpointUnit < a then .lt
  else if a < -midpointUnit then .gt
  else
    let d := den / num.gcd den
    let n := num / num.gcd den % d
    let m := min n (d - n)
    let w := winding a (midpointUnit * midpointUnit - a * a) d d
    if m < w.turns then .gt
    else if m = w.turns then (if w.whole then .eq else .gt)
    else .lt

/-- `q` is rha(TW_ONE * cos(2*pi * num / den)) (42_bit_codec.md R452): between the midpoints beside it, a midpoint going
to the entry farther from 0. -/
def isRomEntry (num den : Nat) (q : Int) : Bool :=
  let low := compareCos num den (2 * q - 1)
  let high := compareCos num den (2 * q + 1)
  (low == .gt || (decide (0 < q) && low == .eq)) && (high == .lt || (decide (q < 0) && high == .eq))

end Sys2Proof.Machine
end

