-- ==== Sys2Proof/Machine/Build.lean ====
section
/-! DEFINITION. What follows from a build's parameters (00_scope.md R13), which builds are legal (R11, R12), and the
reference build of 95_test_vectors.md. -/

namespace Sys2Proof

/-- WB, the bytes of a Window (00_scope.md R13). -/
def Build.windowBytes (b : Build) : Nat := b.N * Config.sampleBytes

/-- H, the bytes of a Header (00_scope.md R13). -/
def Build.headerBytes (b : Build) : Nat := b.F + 3

/-- M = ceil((H + s) / F), the Multibytes of a Frame of payload size `s` (30_encoding.md R305). -/
def Build.multibytes (b : Build) (s : Nat) : Nat := (b.headerBytes + s + b.F - 1) / b.F

/-- FBUF_BYTES = ceil((H + 255) / F) * F, the bytes of a frame buffer (00_scope.md R13). -/
def Build.frameBufferBytes (b : Build) : Nat := b.multibytes 255 * b.F

/-- BINS, the non-DC bins below Nyquist, 1 to N/2 - 1 (00_scope.md R13). -/
def Build.bins (b : Build) : List Nat := List.range' 1 (b.N / 2 - 1)

/-- BINS without CARRIERS (00_scope.md R13). -/
def Build.otherBins (b : Build) : List Nat := b.bins.filter fun k => !b.freq.contains k

/-- COSQ[j]. -/
def Build.cosAt (b : Build) (j : Nat) : Int := b.cosq.getD j 0

/-- SINQ[j]. -/
def Build.sinAt (b : Build) (j : Nat) : Int := b.sinq.getD j 0

/-- N is even and 4 to 65536; the sample rate is positive (00_scope.md R11). -/
def Build.legalWindow (b : Build) : Bool :=
  decide (b.N % 2 = 0) && decide (4 ≤ b.N) && decide (b.N ≤ 65536) && decide (0 < b.sampleRate)

/-- F is 1 to min(255, N/2 - 1) and FREQ holds F distinct bins in 1 to N/2 - 1 (00_scope.md R11). -/
def Build.legalCarriers (b : Build) : Bool :=
  decide (1 ≤ b.F) && decide (b.F ≤ 255) && decide (b.F ≤ b.N / 2 - 1) && decide (b.freq.length = b.F)
    && b.freq.all (fun k => decide (1 ≤ k) && decide (k ≤ b.N / 2 - 1)) && decide b.freq.Nodup

/-- The ROM is the formula's (42_bit_codec.md R452): N entries in each table, COSQ[j] the one of j / N of a turn, SINQ[j]
the one of that angle less a quarter turn. That this is `RomFollowsFormula` is proved in Laws/Rom.lean; see
notes/assumptions/5.md. -/
def Build.legalRom (b : Build) : Bool :=
  decide (b.cosq.length = b.N) && decide (b.sinq.length = b.N)
    && (List.range b.N).all fun j =>
      Machine.isRomEntry j b.N (b.cosAt j) && Machine.isRomEntry (4 * j + 3 * b.N) (4 * b.N) (b.sinAt j)

/-- 1 ≤ ENC_AMP, F * ENC_AMP ≤ 32767, TRIGGER_LEVEL ≤ 32767 (00_scope.md R11). -/
def Build.legalLevels (b : Build) : Bool :=
  decide (1 ≤ b.encAmp) && decide (b.F * b.encAmp ≤ 32767) && decide (b.triggerLevel ≤ 32767)

/-- 0 < SP < SQ, 0 < DP < DQ, 0 < NP ≤ NQ, each denominator at most 65535 (00_scope.md R11). -/
def Build.legalRatios (b : Build) : Bool :=
  decide (0 < b.sp) && decide (b.sp < b.sq) && decide (b.sq ≤ 65535)
    && decide (0 < b.dp) && decide (b.dp < b.dq) && decide (b.dq ≤ 65535)
    && decide (0 < b.np) && decide (b.np ≤ b.nq) && decide (b.nq ≤ 65535)

/-- Each stream's capacity is a multiple of SB and at least N * SB (00_scope.md R11). -/
def Build.legalStreams (b : Build) : Bool :=
  decide (b.rxsBytes % Config.sampleBytes = 0) && decide (b.windowBytes ≤ b.rxsBytes)
    && decide (b.txsBytes % Config.sampleBytes = 0) && decide (b.windowBytes ≤ b.txsBytes)

/-- The legality of a build (00_scope.md R11, R12). -/
def Build.legal (b : Build) : Bool :=
  b.legalWindow && b.legalCarriers && b.legalRom && b.legalLevels && b.legalRatios && b.legalStreams

/-- The reference build (00_scope.md R11, 95_test_vectors.md). -/
def referenceBuild : Build where
  sampleRate := 44100
  N := 128
  F := 1
  freq := [2]
  cosq := Machine.cosq128
  sinq := Machine.sinq128
  encAmp := 16383
  triggerLevel := 2048
  sp := 3
  sq := 5
  dp := 3
  dq := 10
  np := 3
  nq := 4
  rxsBytes := 32768
  txsBytes := 32768
  digest := .md5

end Sys2Proof
end

