-- ==== Sys2Proof/Machine/State.lean ====
section
/-! DEFINITION. The state of the LMC (10_state.md R101 to R146) as plain data, what the agents can do and what they are
given back, and the state after reset (70_reset_and_hazards.md R801). -/

namespace Sys2Proof.Machine

/-- A byte array, as (index, byte) pairs in canonical form: indexes strictly rising, and no entry equal to what an
unlisted index reads as (`Memory.unlisted`, `Memory.wf`). See notes/assumptions/8.md. -/
abbrev Memory := List Host.Cell

/-- The four agents (00_scope.md R7). -/
inductive Agent where
  | host
  | engine
  | capture
  | playback
  deriving DecidableEq, Repr

/-- The direction of a bus transaction, which a BUSERR records (60_exceptions.md R706). -/
inductive BusDir where
  | read
  | write
  deriving DecidableEq, Repr

/-- An entry of the run's fault log (60_exceptions.md R725). -/
inductive FaultRecord where
  /-- BUSERR(off, dir), the HOST's (60_exceptions.md R706). -/
  | busErr (off : Offset) (dir : BusDir)
  /-- PORTERR(agent, n), an audio agent's (60_exceptions.md R708). -/
  | portErr (agent : Agent) (length : Nat)
  /-- StreamRead of `length` bytes where the stream holds `count`, fewer (41_sample_stream.md R412). -/
  | streamUnderflow (length count : Nat)
  deriving DecidableEq, Repr

/-- What a transaction gave back (70_reset_and_hazards.md R851). -/
inductive Reply where
  /-- The data of a BusRead; 0 when it raised BUSERR (60_exceptions.md R706). -/
  | readData (off : Offset) (data : Word)
  /-- The bytes of an AUDIO_OUT (41_sample_stream.md R414). -/
  | audioOut (bytes : List Byte)
  deriving DecidableEq, Repr

/-- One turn: a step of one agent, or the platform's reset (00_scope.md R7, R8; 70_reset_and_hazards.md R801). -/
inductive Action where
  /-- HOST: a read of `width` bits (20_memory.md R206). -/
  | busRead (width : Nat) (off : Offset)
  /-- HOST: a write of `width` bits (20_memory.md R206). -/
  | busWrite (width : Nat) (off : Offset) (v : Word)
  /-- ENGINE: the next micro-step of the command in progress. -/
  | engine
  /-- CAPTURE: AUDIO_IN (41_sample_stream.md R411). -/
  | audioIn (data : List Byte)
  /-- PLAYBACK: AUDIO_OUT (41_sample_stream.md R414). -/
  | audioOut (length : Nat)
  /-- The platform's reset, with the `audio_ok` input (70_reset_and_hazards.md R801, R802). -/
  | reset (audioOk : Bool)
  deriving DecidableEq, Repr

/-- STATUS.CUROP, the command in progress (10_state.md R112). -/
inductive CurOp where
  | none
  | transmit
  | receive
  deriving DecidableEq, Repr

/-- RESULT.RCODE (60_exceptions.md R702). -/
inductive ResultCode where
  | none
  | txDone
  | noDataYet
  | delivered
  | digestMismatch
  | frameAborted
  | illegalCmd
  | notOperational
  deriving DecidableEq, Repr

/-- RXST, the receiver state (10_state.md R131). -/
inductive RxState where
  | scanning
  | syncing
  | header
  | payload
  | validating
  deriving DecidableEq, Repr

/-- A Sample Stream: the circular byte store, the index of the oldest byte and the count (10_state.md R122). -/
structure Stream where
  buf : Memory
  rd : Nat
  cnt : Nat
  deriving DecidableEq, Repr

/-- The state (10_state.md R101 to R146) and, last, the model's own fields: the build, which no step changes, the
turns still to be taken, what was given back, and the fault log. -/
structure State where
  /-- CTRL.NF_SYNC_EN (R111). -/
  nfSyncEn : Bool
  /-- CTRL.NF_DEC_EN (R111). -/
  nfDecEn : Bool
  /-- CTRL.ADAPT_EN (R111). -/
  adaptEn : Bool
  /-- STATUS.BUSY (R112). -/
  busy : Bool
  /-- STATUS.OPERATIONAL (R112). -/
  operational : Bool
  /-- STATUS.OVERLAP (R112). -/
  overlap : Bool
  /-- STATUS.CUROP (R112). -/
  curop : CurOp
  /-- RESULT.RCODE (R114). -/
  rcode : ResultCode
  /-- RESULT.RSIZE (R114). -/
  rsize : Byte
  /-- RXS (R121, R122). -/
  rxs : Stream
  /-- TXS (R121, R122). -/
  txs : Stream
  /-- TXBUF[0..255] (R119). -/
  txbuf : Memory
  /-- WBUF[0..N-1] (R124). -/
  wbuf : Window
  /-- WFILL (R124). -/
  wfill : Nat
  /-- CAL[0..F-1] (R125). -/
  cal : List Nat
  /-- RXST (R131). -/
  rxst : RxState
  /-- RWIDX (R132). -/
  rwidx : BitVec 3
  /-- FB[0..FBUF_BYTES-1] (R133). -/
  fb : Memory
  /-- RCVD (R133). -/
  rcvd : Nat
  /-- THR (R135). -/
  thr : BitVec 17
  /-- VTRIG (R136). -/
  vtrig : BitVec 16
  /-- SIGREJ (R137). -/
  sigrej : BitVec 32
  /-- TFB[0..FBUF_BYTES-1] (R141). -/
  tfb : Memory
  /-- TNW (R141). -/
  tnw : Nat
  /-- TIDX (R141). -/
  tidx : Nat
  /-- The parameters of the build (00_scope.md R11). Model's own: notes/assumptions/1.md. -/
  build : Build
  /-- The turns still to be taken, the next one first. Model's own: notes/assumptions/3.md. -/
  schedule : List Action
  /-- What transactions gave back, oldest first. Model's own: notes/assumptions/12.md. -/
  replies : List Reply
  /-- The run's fault log, oldest first (60_exceptions.md R725). -/
  faultLog : List FaultRecord
  deriving DecidableEq, Repr

/-- Why the machine stops. -/
inductive Fault where
  /-- StreamRead with n > count: a defect of the model, logged (41_sample_stream.md R412, 60_exceptions.md R725); `log` is
  the run's fault log with its entry. Raised by the ENGINE's reads of RXS and PLAYBACK's read of TXS if their count tests
  were wrong; no step raises it. Safe. -/
  | streamUnderflow (log : List FaultRecord)
  deriving DecidableEq, Repr

/-- Why the model gives a step no meaning. -/
inductive Refusal where
  /-- The instruction has no meaning in the model yet. Raised by no arm of `exec`. Safe. -/
  | notModelled (mnemonic : String)
  /-- The build breaks a legality condition: no machine (00_scope.md R12, 60_exceptions.md R725). Raised by `step`.
  Safe. -/
  | illegalBuild
  deriving DecidableEq, Repr

/-- What a step answers. -/
abbrev Result := Host.Outcome State Fault Refusal

/-- The state after a reset of build `b` that samples `audioOk` (70_reset_and_hazards.md R801), with nothing scheduled,
nothing given back and an empty fault log. -/
def State.start (b : Build) (audioOk : Bool) : State where
  nfSyncEn := false
  nfDecEn := false
  adaptEn := false
  busy := false
  operational := audioOk
  overlap := false
  curop := .none
  rcode := .none
  rsize := 0
  rxs := ⟨[], 0, 0⟩
  txs := ⟨[], 0, 0⟩
  txbuf := []
  wbuf := List.replicate b.N 0
  wfill := 0
  cal := List.replicate b.F 0
  rxst := .scanning
  rwidx := 0
  fb := []
  rcvd := 0
  thr := BitVec.ofNat 17 b.triggerLevel
  vtrig := 0
  sigrej := 0
  tfb := []
  tnw := 0
  tidx := 0
  build := b
  schedule := []
  replies := []
  faultLog := []

/-- The machine right after reset: the reference build, `audio_ok` = 1 (95_test_vectors.md's start state; DESIGN CHOICE,
notes/assumptions/1.md and 2.md). -/
def State.reset : State := State.start referenceBuild true

end Sys2Proof.Machine
end

