-- ==== Sys2Proof/Machine/Ops.lean ====
section
/-! DEFINITION. The named operations every meaning uses: byte arrays, Sample Streams (41_sample_stream.md), and the
operations that record an outcome or an error (60_exceptions.md R701 to R711). The LMC has no trap (R715): these records
are all that an error leaves, and there is no return instruction (R716). -/

namespace Sys2Proof.Machine

/-! ### Byte arrays -/

/-- What an unlisted index reads as: 0, the reset contents of every byte array (70_reset_and_hazards.md R801). -/
def Memory.unlisted : Byte := 0

/-- The byte at an index. -/
def Memory.read : Memory → Nat → Byte
  | [], _ => Memory.unlisted
  | (k, v) :: rest, a => if k = a then v else Memory.read rest a

/-- Store a byte at an index, keeping the canonical form. -/
def Memory.write : Memory → Nat → Byte → Memory
  | [], a, v => if v = Memory.unlisted then [] else [(a, v)]
  | (k, u) :: rest, a, v =>
    if a < k then (if v = Memory.unlisted then (k, u) :: rest else (a, v) :: (k, u) :: rest)
    else if a = k then (if v = Memory.unlisted then rest else (a, v) :: rest)
    else (k, u) :: Memory.write rest a v

/-- Canonical from index `lo` on: indexes at least `lo` and strictly rising, no entry equal to the unlisted byte. -/
def Memory.wfFrom : Nat → Memory → Bool
  | _, [] => true
  | lo, (k, v) :: rest => decide (lo ≤ k) && decide (v ≠ Memory.unlisted) && Memory.wfFrom (k + 1) rest

/-- The canonical form. -/
def Memory.wf (m : Memory) : Bool := Memory.wfFrom 0 m

/-- Every listed index is below `size`. -/
def Memory.within (size : Nat) (m : Memory) : Bool := m.all fun c => decide (c.1 < size)

/-- Store bytes at consecutive indexes from `base`. -/
def Memory.writeAll : Nat → List Byte → Memory → Memory
  | _, [], m => m
  | base, v :: vs, m => Memory.writeAll (base + 1) vs (m.write base v)

/-- The array that holds `bytes` from index 0 and 0 elsewhere. -/
def Memory.ofBytes (bytes : List Byte) : Memory := Memory.writeAll 0 bytes []

/-- The bytes at `count` consecutive indexes from `base`. -/
def Memory.readAll (m : Memory) (base count : Nat) : List Byte :=
  (List.range count).map fun i => m.read (base + i)

/-! ### Sample Streams -/

/-- The oldest `n` bytes of the circular store of capacity `cap` (41_sample_stream.md R401, R412). -/
def Stream.oldest (cap n : Nat) (s : Stream) : List Byte :=
  (List.range n).map fun i => s.buf.read ((s.rd + i) % cap)

/-- The bytes a stream holds, oldest first (41_sample_stream.md R401). -/
def Stream.contents (cap : Nat) (s : Stream) : List Byte := s.oldest cap s.cnt

/-- The free space of a stream (41_sample_stream.md R413). -/
def Stream.free (cap : Nat) (s : Stream) : Nat := cap - s.cnt

/-- Store bytes at consecutive positions of the circular store. -/
def storeCircular (cap : Nat) : Nat → List Byte → Memory → Memory
  | _, [], m => m
  | at_, v :: vs, m => storeCircular cap (at_ + 1) vs (m.write (at_ % cap) v)

/-- The bytes an overflow discards: the overflow amount, rounded up to whole Samples (41_sample_stream.md R411). -/
def overflowDiscard (cap cnt length : Nat) : Nat :=
  if cap - cnt < length then
    (length - (cap - cnt) + Config.sampleBytes - 1) / Config.sampleBytes * Config.sampleBytes
  else 0

/-- StreamWrite (41_sample_stream.md R411): of a chunk larger than the capacity the newest bytes are kept; on overflow
the oldest bytes are discarded; then the chunk is appended. -/
def Stream.write (cap : Nat) (data : List Byte) (s : Stream) : Stream :=
  let kept := data.drop (data.length - cap)
  let d := overflowDiscard cap s.cnt kept.length
  let rd := (s.rd + d) % cap
  let cnt := s.cnt - d
  ⟨storeCircular cap (rd + cnt) kept s.buf, rd, cnt + kept.length⟩

/-- StreamRead (41_sample_stream.md R412): the oldest `n` bytes and the stream without them; nothing where the stream
holds fewer. -/
def Stream.read (cap n : Nat) (s : Stream) : Option (List Byte × Stream) :=
  if n ≤ s.cnt then
    some (s.oldest cap n, ⟨s.buf, (s.rd + n) % cap, s.cnt - n⟩)
  else none

/-! ### Records of outcomes and errors -/

/-- finish(code, size): the end of the command in progress (60_exceptions.md R711). -/
def finish (code : ResultCode) (size : Byte) (s : State) : State :=
  { s with rcode := code, rsize := size, busy := false, curop := .none }

/-- A command refused at issue: RESULT is overwritten and nothing else changes (60_exceptions.md R705, R707, R709). -/
def refuseCommand (code : ResultCode) (s : State) : State := { s with rcode := code, rsize := 0 }

/-- OVERLAP: the sticky status bit (60_exceptions.md R710). -/
def raiseOverlap (s : State) : State := { s with overlap := true }

/-- BUSERR and PORTERR: an entry of the fault log; the LMC's state does not change (60_exceptions.md R706, R708,
R725). -/
def logFault (r : FaultRecord) (s : State) : State := { s with faultLog := s.faultLog ++ [r] }

/-- StreamRead of `length` bytes from a stream that holds `count`, fewer: the machine stops, with the entry in the fault log
it leaves (41_sample_stream.md R412, 60_exceptions.md R725). -/
def stopUnderflow (length count : Nat) (s : State) : Result :=
  .fault (.streamUnderflow (s.faultLog ++ [.streamUnderflow length count]))

/-- What a transaction gives back. -/
def giveBack (r : Reply) (s : State) : State := { s with replies := s.replies ++ [r] }

/-- The acceptance of a legal command (60_exceptions.md R705, the checks in their order): OVERLAP while a command is in
progress, NOT_OPERATIONAL without an audio device, and otherwise the issue. -/
def acceptCommand (issue : State → State) (s : State) : State :=
  if s.busy then raiseOverlap s
  else if s.operational then issue s
  else refuseCommand .notOperational s

/-- The platform's reset (70_reset_and_hazards.md R801, R802): every piece of state takes its reset value, OPERATIONAL
samples `audio_ok`; the build, the turns still to be taken, what was given back and the fault log stay. -/
def resetEvent (audioOk : Bool) (s : State) : State :=
  { State.start s.build audioOk with schedule := s.schedule, replies := s.replies, faultLog := s.faultLog }

end Sys2Proof.Machine
end

