-- ==== Sys2Proof/Machine/Operands.lean ====
section
/-! DEFINITION. Operand forms: Samples and Windows as bytes (00_scope.md R17, 30_encoding.md R302), the words over TXBUF
and RXBUF (20_memory.md R211), TRANSMIT's payload (30_encoding.md R322) and the bytes RXBUF shows (10_state.md R120). -/

namespace Sys2Proof.Machine

/-- The two bytes of a Sample, low byte first (00_scope.md R17). -/
def bytesOfSample (v : Sample) : List Byte := [v.extractLsb' 0 8, v.extractLsb' 8 8]

/-- The Sample of two bytes, low byte first (00_scope.md R17). -/
def sampleOfBytes (low high : Byte) : Sample := high ++ low

/-- The bytes of a Window, Sample 0 first (30_encoding.md R302). -/
def bytesOfWindow (w : Window) : List Byte := w.flatMap bytesOfSample

/-- The Samples of a list of bytes, low byte first (30_encoding.md R302). -/
def windowOfBytes : List Byte → Window
  | low :: high :: rest => sampleOfBytes low high :: windowOfBytes rest
  | _ => []

/-- Byte `i` of a bus word: bits 8i+7 to 8i (20_memory.md R211). -/
def busByte (v : Word) (i : Nat) : Byte := v.extractLsb' (8 * i) 8

/-- The bus word over four bytes of a buffer, the byte at the lowest offset in bits 7:0 (20_memory.md R211). -/
def busWord (byteAt : Nat → Byte) (j : Nat) : Word :=
  byteAt (4 * j + 3) ++ byteAt (4 * j + 2) ++ byteAt (4 * j + 1) ++ byteAt (4 * j)

/-- A word write to TXBUF: its four bytes, low byte first (20_memory.md R211). -/
def storeWord (j : Nat) (v : Word) (m : Memory) : Memory :=
  Memory.writeAll (4 * j) [busByte v 0, busByte v 1, busByte v 2, busByte v 3] m

/-- TRANSMIT's payload, TXBUF[0..size-1] (30_encoding.md R322). -/
def payloadOf (size : Nat) (s : State) : List Byte := s.txbuf.readAll 0 size

/-- RXBUF[i]: FB[H + i] inside the frame buffer, 0 past its end (10_state.md R120). -/
def rxbufByte (s : State) (i : Nat) : Byte :=
  if s.build.headerBytes + i < s.build.frameBufferBytes then s.fb.read (s.build.headerBytes + i) else 0

/-- FB[F], the size field of the Frame being received (10_state.md R134). -/
def receivedSize (s : State) : Byte := s.fb.read s.build.F

/-- {FB[F+2], FB[F+1]}, the hash field of the Frame being received (10_state.md R134). -/
def receivedHash (s : State) : BitVec 16 := s.fb.read (s.build.F + 2) ++ s.fb.read (s.build.F + 1)

end Sys2Proof.Machine
end

