-- ==== Sys2Proof/Machine/Codec.lean ====
section
/-! DEFINITION. The frequency-domain bit codec (42_bit_codec.md), in exact integer arithmetic. -/

namespace Sys2Proof.Machine

/-- round_div: a / d to the nearest integer, a half away from zero (42_bit_codec.md R454). -/
def roundDiv (a : Int) (d : Nat) : Int := a.sign * (((a.natAbs + d / 2) / d : Nat) : Int)

/-- sat16: saturation to SMIN..SMAX (42_bit_codec.md R454; 00_scope.md R13). -/
def sat16 (v : Int) : Int := max (-32768) (min 32767 v)

/-- The encoder's sum over the active carriers at Sample n (42_bit_codec.md R455). -/
def carrierSum (b : Build) (bits : Multibit) (n : Nat) : Int :=
  ((List.range b.F).map fun c => if bits.getD c false then b.cosAt (b.freq.getD c 0 * n % b.N) else 0).sum

/-- Encode (42_bit_codec.md R455): the Window that carries a Multibit. -/
def encodeWindow (b : Build) (bits : Multibit) : Window :=
  (List.range b.N).map fun n => BitVec.ofInt 16 (sat16 (roundDiv (b.encAmp * carrierSum b bits n) Config.twOne))

/-- The silent Window (42_bit_codec.md R462). -/
def silentWindow (b : Build) : Window := List.replicate b.N 0

/-- TAPQ[n] = TW_ONE - COSQ[n] (42_bit_codec.md R457). -/
def taper (b : Build) (n : Nat) : Int := Config.twOne - b.cosAt n

/-- The tapered Sample n of a Window (42_bit_codec.md R458). -/
def taperedSample (b : Build) (w : Window) (n : Nat) : Int := taper b n * (w.getD n 0).toInt

/-- RE of bin k (42_bit_codec.md R458). -/
def binReal (b : Build) (w : Window) (k : Nat) : Int :=
  ((List.range b.N).map fun n => taperedSample b w n * b.cosAt (k * n % b.N)).sum

/-- IM of bin k (42_bit_codec.md R458). -/
def binImag (b : Build) (w : Window) (k : Nat) : Int :=
  -((List.range b.N).map fun n => taperedSample b w n * b.sinAt (k * n % b.N)).sum

/-- Power (42_bit_codec.md R458): the exact spectral power of a Window at bin k. -/
def power (b : Build) (w : Window) (k : Nat) : Nat := (binReal b w k).natAbs ^ 2 + (binImag b w k).natAbs ^ 2

/-- FREQ[c], the bin of channel c (42_bit_codec.md R451). -/
def carrierBin (b : Build) (c : Nat) : Nat := b.freq.getD c 0

/-- The powers of a Window at the carriers, channel 0 first. -/
def carrierPowers (b : Build) (w : Window) : List Nat := (List.range b.F).map fun c => power b w (carrierBin b c)

/-- DecodeMultibit (42_bit_codec.md R461): bit c is 1 where the power exceeds DECODE_RATIO squared times CAL[c]. -/
def decodeMultibit (b : Build) (w : Window) (cal : List Nat) : Multibit :=
  (List.range b.F).map fun c => decide (b.dp * b.dp * cal.getD c 0 < b.dq * b.dq * power b w (carrierBin b c))

/-- WMAX (42_bit_codec.md R463): the largest power over BINS. -/
def windowMax (b : Build) (w : Window) : Nat := (b.bins.map (power b w)).foldl max 0

/-- NoiseOK (42_bit_codec.md R464): every non-carrier bin is weak relative to the window maximum. -/
def noiseOk (b : Build) (w : Window) : Bool :=
  let m := windowMax b w
  b.otherBins.all fun k => decide (b.nq * b.nq * power b w k ≤ b.np * b.np * m)

end Sys2Proof.Machine
end

