-- ==== Sys2Proof/Machine/Digest.lean ====
section
/-! DEFINITION. The digest port (44_framing.md R553): MD5, the reference build's DIGEST (93_implementation_defined.md
G2, from general knowledge), and any other total function, which stays uninterpreted. -/

namespace Sys2Proof.Machine

/-- MD5's 64 additive constants, floor(2^32 * abs(sin(i + 1))). PRESUMED: general knowledge (log 6). -/
def md5Constants : List Word :=
    [0xd76aa478, 0xe8c7b756, 0x242070db, 0xc1bdceee, 0xf57c0faf, 0x4787c62a, 0xa8304613, 0xfd469501]
    ++ [0x698098d8, 0x8b44f7af, 0xffff5bb1, 0x895cd7be, 0x6b901122, 0xfd987193, 0xa679438e, 0x49b40821]
    ++ [0xf61e2562, 0xc040b340, 0x265e5a51, 0xe9b6c7aa, 0xd62f105d, 0x02441453, 0xd8a1e681, 0xe7d3fbc8]
    ++ [0x21e1cde6, 0xc33707d6, 0xf4d50d87, 0x455a14ed, 0xa9e3e905, 0xfcefa3f8, 0x676f02d9, 0x8d2a4c8a]
    ++ [0xfffa3942, 0x8771f681, 0x6d9d6122, 0xfde5380c, 0xa4beea44, 0x4bdecfa9, 0xf6bb4b60, 0xbebfbc70]
    ++ [0x289b7ec6, 0xeaa127fa, 0xd4ef3085, 0x04881d05, 0xd9d4d039, 0xe6db99e5, 0x1fa27cf8, 0xc4ac5665]
    ++ [0xf4292244, 0x432aff97, 0xab9423a7, 0xfc93a039, 0x655b59c3, 0x8f0ccc92, 0xffeff47d, 0x85845dd1]
    ++ [0x6fa87e4f, 0xfe2ce6e0, 0xa3014314, 0x4e0811a1, 0xf7537e82, 0xbd3af235, 0x2ad7d2bb, 0xeb86d391]

/-- MD5's left rotations: four per round of sixteen operations. PRESUMED: general knowledge (log 6). -/
def md5Rotations : List (List Nat) := [[7, 12, 17, 22], [5, 9, 14, 20], [4, 11, 16, 23], [6, 10, 15, 21]]

/-- MD5's four chaining words. -/
structure Md5State where
  a : Word
  b : Word
  c : Word
  d : Word
  deriving DecidableEq, Repr

/-- MD5's initial chaining words. PRESUMED: general knowledge (log 6). -/
def md5Init : Md5State := ⟨0x67452301, 0xefcdab89, 0x98badcfe, 0x10325476⟩

/-- Operation `i` of MD5 (0 to 63) on the block's sixteen words. -/
def md5Operation (block : List Word) (s : Md5State) (i : Nat) : Md5State :=
  let mix : Word × Nat :=
    match i / 16 with
    | 0 => ((s.b &&& s.c) ||| (~~~s.b &&& s.d), i)
    | 1 => ((s.d &&& s.b) ||| (~~~s.d &&& s.c), (5 * i + 1) % 16)
    | 2 => (s.b ^^^ s.c ^^^ s.d, (3 * i + 5) % 16)
    | _ => (s.c ^^^ (s.b ||| ~~~s.d), (7 * i) % 16)
  let sum := s.a + mix.1 + md5Constants.getD i 0 + block.getD mix.2 0
  ⟨s.d, s.b + sum.rotateLeft ((md5Rotations.getD (i / 16) []).getD (i % 4) 0), s.b, s.c⟩

/-- The little-endian words of a list of bytes. -/
def littleEndianWords : List Byte → List Word
  | b0 :: b1 :: b2 :: b3 :: rest => (b3 ++ b2 ++ b1 ++ b0 : Word) :: littleEndianWords rest
  | _ => []

/-- MD5's compression of one block. -/
def md5Block (s : Md5State) (block : List Word) : Md5State :=
  let r := (List.range 64).foldl (md5Operation block) s
  ⟨s.a + r.a, s.b + r.b, s.c + r.c, s.d + r.d⟩

/-- The bytes of a number, low byte first. -/
def littleEndianBytes (count n : Nat) : List Byte := (List.range count).map fun i => BitVec.ofNat 8 (n / 256 ^ i)

/-- MD5's padding: 0x80, zeros, and the length in bits as eight bytes, to a multiple of 64 bytes. -/
def md5Pad (bytes : List Byte) : List Byte :=
  bytes ++ [0x80] ++ List.replicate ((119 - bytes.length % 64) % 64) 0 ++ littleEndianBytes 8 (8 * bytes.length)

/-- The chaining words after the whole message. -/
def md5Final (bytes : List Byte) : Md5State :=
  let words := littleEndianWords (md5Pad bytes)
  (List.range (words.length / 16)).foldl (fun s j => md5Block s ((words.drop (16 * j)).take 16)) md5Init

/-- Byte `i` of a word, low byte first. -/
def wordByte (w : Word) (i : Nat) : Byte := w.extractLsb' (8 * i) 8

/-- MD5 of a byte sequence. PRESUMED: general knowledge (44_framing.md R553 names it; log 6). -/
def md5 (bytes : List Byte) : Vector Byte 16 :=
  let s := md5Final bytes
  Vector.ofFn fun i =>
    let w := match i.val / 4 with
      | 0 => s.a
      | 1 => s.b
      | 2 => s.c
      | _ => s.d
    wordByte w (i.val % 4)

/-- DIGEST, the digest port: a total function of the byte sequence (44_framing.md R553). -/
def digestOf : DigestFn → List Byte → Vector Byte 16
  | .md5, bytes => md5 bytes
  | .other id, bytes => Config.otherDigest id bytes

/-- Hash16: D[0] in bits 7:0 and D[1] in bits 15:8 (44_framing.md R552). -/
def hash16 (digest : DigestFn) (payload : List Byte) : BitVec 16 :=
  let d := digestOf digest payload
  d[1] ++ d[0]

end Sys2Proof.Machine
end

