-- ==== Sys2Proof/Machine/Framing.lean ====
section
/-! DEFINITION. Framing and integrity (44_framing.md; 30_encoding.md R303 to R305): a Frame's bytes, its Windows on the
wire, and the receiver's digest check. -/

namespace Sys2Proof.Machine

/-- Byte i of the Frame of payload `p` of size `size` with hash `h` (44_framing.md R554). -/
def frameByte (b : Build) (p : List Byte) (size : Nat) (h : BitVec 16) (i : Nat) : Byte :=
  if i < b.F then 0xFF
  else if i = b.F then BitVec.ofNat 8 size
  else if i = b.F + 1 then h.extractLsb' 0 8
  else if i = b.F + 2 then h.extractLsb' 8 8
  else if i < b.headerBytes + size then p.getD (i - b.headerBytes) 0
  else 0

/-- BuildFrame (44_framing.md R554): the M * F bytes of the Frame. -/
def buildFrame (b : Build) (p : List Byte) (size : Nat) : List Byte :=
  (List.range (b.multibytes size * b.F)).map (frameByte b p size (hash16 b.digest (p.take size)))

/-- The Multibit that data Window `idx` of a Frame carries: bit idx mod 8 of the bytes of Multibyte idx / 8, channel c
carrying byte c (30_encoding.md R303). -/
def windowBits (b : Build) (frame : Memory) (idx : Nat) : Multibit :=
  (List.range b.F).map fun c => (frame.read (idx / 8 * b.F + c)).getLsbD (idx % 8)

/-- Window `idx` of a Frame of `dataWindows` data Windows: encoded data, then the silent gap (44_framing.md R555). -/
def frameWindow (b : Build) (frame : Memory) (dataWindows idx : Nat) : Window :=
  if idx < dataWindows then encodeWindow b (windowBits b frame idx) else silentWindow b

/-- The bytes of a whole Frame on the wire (44_framing.md R555, 30_encoding.md R305). -/
def wireBytes (b : Build) (p : List Byte) (size : Nat) : List Byte :=
  (List.range (8 * b.multibytes size + 1)).flatMap fun idx =>
    bytesOfWindow (frameWindow b (Memory.ofBytes (buildFrame b p size)) (8 * b.multibytes size) idx)

/-- The payload bytes of the Frame received: FB[H..H+s-1] with s = FB[F] (44_framing.md R557). -/
def receivedPayload (s : State) : List Byte := s.fb.readAll s.build.headerBytes (receivedSize s).toNat

/-- AcceptFrame (44_framing.md R557): the payload's Hash16 equals the hash field. -/
def acceptFrame (s : State) : Bool := decide (hash16 s.build.digest (receivedPayload s) = receivedHash s)

end Sys2Proof.Machine
end

