-- ==== Sys2Proof/Machine/Flags.lean ====
section
/-! DEFINITION. The status and result registers as words, field by field (10_state.md R111, R112, R114 to R118), and the
writes that change a field (R111, R112). The LMC has no condition codes (R104): these fields are its flags. -/

namespace Sys2Proof.Machine

/-- The encoding of CUROP (10_state.md R112). -/
def CurOp.code : CurOp → BitVec 2
  | .none => 0
  | .transmit => 1
  | .receive => 2

/-- The encoding of RCODE (60_exceptions.md R702). -/
def ResultCode.code : ResultCode → BitVec 4
  | .none => 0
  | .txDone => 1
  | .noDataYet => 2
  | .delivered => 3
  | .digestMismatch => 4
  | .frameAborted => 5
  | .illegalCmd => 6
  | .notOperational => 7

/-- The encoding of RXST (10_state.md R131). -/
def RxState.code : RxState → BitVec 3
  | .scanning => 0
  | .syncing => 1
  | .header => 2
  | .payload => 3
  | .validating => 4

/-- CTRL: NF_SYNC_EN bit 0, NF_DEC_EN bit 1, ADAPT_EN bit 2 (10_state.md R111). -/
def ctrlWord (s : State) : Word :=
  0#29 ++ BitVec.ofBool s.adaptEn ++ BitVec.ofBool s.nfDecEn ++ BitVec.ofBool s.nfSyncEn

/-- STATUS: BUSY bit 0, OPERATIONAL 1, OVERLAP 2, RXST 6:4, RWIDX 10:8, CUROP 13:12 (10_state.md R112). -/
def statusWord (s : State) : Word :=
  0#18 ++ s.curop.code ++ 0#1 ++ s.rwidx ++ 0#1 ++ s.rxst.code ++ 0#1
    ++ BitVec.ofBool s.overlap ++ BitVec.ofBool s.operational ++ BitVec.ofBool s.busy

/-- RESULT: RCODE 3:0, RSIZE 15:8 (10_state.md R114). -/
def resultWord (s : State) : Word := 0#16 ++ s.rsize ++ 0#4 ++ s.rcode.code

/-- RXS_COUNT, RXS_SIZE, TXS_COUNT, TXS_SIZE: the number of bytes (10_state.md R115). Where 32 bits cannot hold it, the
spec states no value, and it is the free value `Config.wideCount` (DESIGN CHOICE, notes/assumptions/21.md). -/
def countWord (n : Nat) : Word := if n < 2 ^ 32 then BitVec.ofNat 32 n else Config.wideCount n

/-- TRIG_THR: THR in 16:0 (10_state.md R116). -/
def trigThrWord (s : State) : Word := 0#15 ++ s.thr

/-- CFG0: N in 16:0 (10_state.md R118). -/
def cfg0Word (b : Build) : Word := 0#15 ++ BitVec.ofNat 17 b.N

/-- CFG1: F in 7:0, H in 16:8 (10_state.md R118). -/
def cfg1Word (b : Build) : Word := 0#15 ++ BitVec.ofNat 9 b.headerBytes ++ BitVec.ofNat 8 b.F

/-- THR's base value (10_state.md R135). -/
def baseThreshold (b : Build) : BitVec 17 := BitVec.ofNat 17 b.triggerLevel

/-- CtrlWrite (60_exceptions.md R705): OVERLAP while BUSY = 1; otherwise the three policy bits, and THR reloads
(43_sync_calibration.md R510). -/
def ctrlWrite (v : Word) (s : State) : State :=
  if s.busy then raiseOverlap s
  else { s with
    nfSyncEn := v.getLsbD 0, nfDecEn := v.getLsbD 1, adaptEn := v.getLsbD 2, thr := baseThreshold s.build }

/-- A STATUS write: bit 2 = 1 clears OVERLAP, and nothing else changes (10_state.md R112). -/
def statusWrite (v : Word) (s : State) : State := if v.getLsbD 2 then { s with overlap := false } else s

end Sys2Proof.Machine
end

