-- ==== Sys2Proof/Machine/Sync.lean ====
section
/-! DEFINITION. Synchronization and calibration (43_sync_calibration.md): the trigger, the signature test, and what a
pass and a rejection do. The micro-step that uses them is `syncStep` in Receive.lean. -/

namespace Sys2Proof.Machine

/-- abs of a Sample, on integers: 0 to 32768 (00_scope.md R15). -/
def sampleAbs (v : Sample) : Nat := v.toInt.natAbs

/-- Trigger(v): abs(v) > THR (43_sync_calibration.md R502). -/
def triggers (thr : BitVec 17) (v : Sample) : Bool := decide (thr.toNat < sampleAbs v)

/-- The trigger action (43_sync_calibration.md R503): the trigger Sample is Sample 0 of signature Window 0. -/
def triggerAction (v : Sample) (s : State) : State :=
  { s with
    vtrig := BitVec.ofNat 16 (sampleAbs v)
    wbuf := s.wbuf.set 0 v
    wfill := 1
    rwidx := 0
    rxst := .syncing }

/-- CarrierTest (43_sync_calibration.md R505): every carrier exceeds SYNC_RATIO squared times the window maximum. -/
def carrierTest (b : Build) (w : Window) : Bool :=
  let m := windowMax b w
  (carrierPowers b w).all fun p => decide (b.sp * b.sp * m < b.sq * b.sq * p)

/-- SigCheck (43_sync_calibration.md R506): CarrierTest, and the noise-floor check where NF_SYNC_EN = 1. -/
def sigCheck (b : Build) (nfSyncEn : Bool) (w : Window) : Bool := carrierTest b w && (!nfSyncEn || noiseOk b w)

/-- Synchronized (43_sync_calibration.md R508). -/
def synchronized (w : Window) (s : State) : State :=
  { s with
    cal := carrierPowers s.build w
    fb := Memory.ofBytes (List.replicate s.build.F 0xFF)
    rcvd := s.build.F
    rwidx := 0
    thr := baseThreshold s.build
    rxst := .header }

/-- Reject, the SignatureRejected event (43_sync_calibration.md R509, 60_exceptions.md R703). -/
def rejectSignature (s : State) : State :=
  { s with
    sigrej := s.sigrej + 1
    thr := if s.adaptEn then s.vtrig.setWidth 17 <<< 1 else s.thr
    rxst := .scanning
    rwidx := 0
    wfill := 0 }

end Sys2Proof.Machine
end

