-- ==== Sys2Proof/Machine/Receive.lean ====
section
/-! DEFINITION. RECEIVE (46_receiver.md): the issue and the micro-steps of the receiver state machine. -/

namespace Sys2Proof.Machine

/-- The issue of RECEIVE (46_receiver.md R651): the receiver resumes in the state it was left in. -/
def issueReceive (s : State) : State := { s with busy := true, curop := .receive }

/-- RECEIVE, a legal CMD word (60_exceptions.md R705, 46_receiver.md R651). -/
def execReceive (s : State) : Result := .next (acceptCommand issueReceive s)

/-- A micro-step that needs `need` bytes of RXS: NO_DATA_YET where RXS holds fewer (46_receiver.md R662); otherwise it
reads exactly those and goes on. The count test and the read are one step, so the read never asks for more than there
is (41_sample_stream.md R412). -/
def withBytes (need : Nat) (s : State) (go : List Byte → State → State) : Result :=
  if s.rxs.cnt < need then .next (finish .noDataYet 0 s)
  else
    match s.rxs.read s.build.rxsBytes need with
    | none => stopUnderflow need s.rxs.cnt s
    | some (bytes, rxs) => .next (go bytes { s with rxs := rxs })

/-- AcquireWindow (46_receiver.md R654): the rest of the Window, WBUF[WFILL..N-1], read whole or not at all. -/
def withWindow (s : State) (go : Window → State → State) : Result :=
  withBytes ((s.build.N - s.wfill) * Config.sampleBytes) s fun bytes t =>
    let w := t.wbuf.take t.wfill ++ windowOfBytes bytes
    go w { t with wbuf := w, wfill := 0 }

/-- ScanStep on the Sample read (46_receiver.md R653). -/
def scanSample (bytes : List Byte) (s : State) : State :=
  let v := sampleOfBytes (bytes.getD 0 0) (bytes.getD 1 0)
  if triggers s.thr v then triggerAction v s else s

/-- ScanStep (46_receiver.md R653). -/
def scanStep (s : State) : Result := withBytes Config.sampleBytes s scanSample

/-- SyncStep on the signature Window read (43_sync_calibration.md R507). -/
def syncWindow (w : Window) (s : State) : State :=
  if sigCheck s.build s.nfSyncEn w then
    if s.rwidx.toNat < 7 then { s with rwidx := s.rwidx + 1 } else synchronized w s
  else rejectSignature s

/-- SyncStep (43_sync_calibration.md R507). -/
def syncStep (s : State) : Result := withWindow s syncWindow

/-- AbortFrame (46_receiver.md R664). -/
def abortFrame (s : State) : State := finish .frameAborted 0 { s with rxst := .scanning, rwidx := 0 }

/-- OR the bits of a Multibit into bit `k` of consecutive bytes from `base` (46_receiver.md R665). -/
def orMultibit (k : Nat) : Nat → Multibit → Memory → Memory
  | _, [], m => m
  | base, bit :: rest, m =>
    orMultibit k (base + 1) rest (m.write base (m.read base ||| (if bit then 1#8 <<< k else 0#8)))

/-- The end of a Multibyte (46_receiver.md R665): the Frame is complete, or more of it follows. -/
def completeMultibyte (s : State) : State :=
  let rcvd := s.rcvd + s.build.F
  { s with
    rwidx := 0
    rcvd := rcvd
    rxst := if s.build.headerBytes + (receivedSize s).toNat ≤ rcvd then .validating else .payload }

/-- DecodeStep on the Window read (46_receiver.md R664, R665). -/
def decodeWindow (w : Window) (s : State) : State :=
  if s.nfDecEn && !noiseOk s.build w then abortFrame s
  else
    let t := { s with fb := orMultibit s.rwidx.toNat s.rcvd (decodeMultibit s.build w s.cal) s.fb }
    if s.rwidx.toNat < 7 then { t with rwidx := s.rwidx + 1 } else completeMultibyte t

/-- DecodeStep, the HEADER and PAYLOAD micro-step (46_receiver.md R665). -/
def decodeStep (s : State) : Result := withWindow s decodeWindow

/-- ValidateStep (46_receiver.md R666): DELIVERED with the size, or DIGEST_MISMATCH. -/
def validateStep (s : State) : State :=
  let t := { s with rxst := .scanning, rwidx := 0 }
  if acceptFrame s then finish .delivered (receivedSize s) t else finish .digestMismatch 0 t

/-- The RECEIVE micro-step that RXST selects (46_receiver.md R655). -/
def receiveStep (s : State) : Result :=
  match s.rxst with
  | .scanning => scanStep s
  | .syncing => syncStep s
  | .header => decodeStep s
  | .payload => decodeStep s
  | .validating => .next (validateStep s)

end Sys2Proof.Machine
end

