-- ==== Sys2Proof/Machine/Transmit.lean ====
section
/-! DEFINITION. TRANSMIT (45_transmitter.md): the issue and the micro-step EmitWindow. -/

namespace Sys2Proof.Machine

/-- IssueTransmit (45_transmitter.md R602): the Frame is built from TXBUF and fixed; the rest of TFB is 0. -/
def issueTransmit (size : Nat) (s : State) : State :=
  { s with
    tfb := Memory.ofBytes (buildFrame s.build (payloadOf size s) size)
    tnw := 8 * s.build.multibytes size
    tidx := 0
    busy := true
    curop := .transmit }

/-- TRANSMIT size, a legal CMD word (60_exceptions.md R705, 45_transmitter.md R601). -/
def execTransmit (size : Nat) (s : State) : Result := .next (acceptCommand (issueTransmit size) s)

/-- EmitWindow (45_transmitter.md R603): hold without WB free bytes; otherwise the next Window into TXS, and TX_DONE
with the gap Window. -/
def emitWindow (s : State) : State :=
  if s.tnw < s.tidx ∨ s.txs.free s.build.txsBytes < s.build.windowBytes then s
  else
    let w := frameWindow s.build s.tfb s.tnw s.tidx
    let t := { s with txs := s.txs.write s.build.txsBytes (bytesOfWindow w), tidx := s.tidx + 1 }
    if t.tidx = s.tnw + 1 then finish .txDone 0 t else t

end Sys2Proof.Machine
end

