-- ==== Sys2Proof/Machine/Dispatch.lean ====
section
/-! DEFINITION. One arm per command: the meaning of its legal CMD word, issued by the HOST (60_exceptions.md R705). -/

namespace Sys2Proof.Machine

def exec (i : Instr) (s : State) : Host.Outcome State Fault Refusal :=
  match i with
  | .transmit size => Sys2Proof.Machine.execTransmit size s
  | .receive => Sys2Proof.Machine.execReceive s

end Sys2Proof.Machine
end

