-- ==== Sys2Proof/Machine/Bus.lean ====
section
/-! DEFINITION. The host bus (20_memory.md R203 to R211; 10_state.md R110): the register an offset names, BusRead,
BusWrite, and CmdWrite (60_exceptions.md R705). -/

namespace Sys2Proof.Machine

/-- A register of the host register block (10_state.md R110). -/
inductive Register where
  | ctrl
  | status
  | cmd
  | result
  | rxsCount
  | rxsSize
  | txsCount
  | txsSize
  | trigThr
  | sigrejCnt
  | cfg0
  | cfg1
  /-- The word TXBUF[4j..4j+3]. -/
  | txbuf (j : Nat)
  /-- The word RXBUF[4j..4j+3]. -/
  | rxbuf (j : Nat)
  deriving DecidableEq, Repr

/-- The twelve registers below 0x030, in the order of their offsets (10_state.md R110). -/
def lowRegisters : List Register :=
  [.ctrl, .status, .cmd, .result, .rxsCount, .rxsSize, .txsCount, .txsSize, .trigThr, .sigrejCnt, .cfg0, .cfg1]

/-- The register at an offset; none where the offset is no multiple of 4 or is unmapped (20_memory.md R205 to R207). -/
def registerAt (off : Offset) : Option Register :=
  let o := off.toNat
  if o % 4 ≠ 0 then none
  else if o < 0x030 then lowRegisters[o / 4]?
  else if 0x100 ≤ o ∧ o < 0x200 then some (.txbuf ((o - 0x100) / 4))
  else if 0x200 ≤ o ∧ o < 0x300 then some (.rxbuf ((o - 0x200) / 4))
  else none

/-- The register a transaction of `width` bits reaches; none where it raises BUSERR (20_memory.md R205, R206). -/
def busTarget (width : Nat) (off : Offset) : Option Register := if width = 32 then registerAt off else none

/-- read_value (20_memory.md R206; 10_state.md R111 to R120). What the count and size registers read for 2^32 bytes or
more is a free value, the model's choice (`countWord`, notes/assumptions/21.md). -/
def readRegister (s : State) : Register → Word
  | .ctrl => ctrlWord s
  | .status => statusWord s
  | .cmd => 0
  | .result => resultWord s
  | .rxsCount => countWord s.rxs.cnt
  | .rxsSize => countWord s.build.rxsBytes
  | .txsCount => countWord s.txs.cnt
  | .txsSize => countWord s.build.txsBytes
  | .trigThr => trigThrWord s
  | .sigrejCnt => s.sigrej
  | .cfg0 => cfg0Word s.build
  | .cfg1 => cfg1Word s.build
  | .txbuf j => busWord s.txbuf.read j
  | .rxbuf j => busWord (rxbufByte s) j

/-- BusRead (20_memory.md R206): the register's value, or BUSERR and 0 (60_exceptions.md R706). It changes nothing else
(20_memory.md R208). -/
def busRead (width : Nat) (off : Offset) (s : State) : State :=
  match busTarget width off with
  | some r => giveBack (.readData off (readRegister s r)) s
  | none => giveBack (.readData off 0) (logFault (.busErr off .read) s)

/-- A CMD write of an illegal word (60_exceptions.md R705, R707): OVERLAP outranks ILLEGAL_CMD. -/
def illegalCommand (s : State) : State := if s.busy then raiseOverlap s else refuseCommand .illegalCmd s

/-- CmdWrite (60_exceptions.md R705): the command the word decodes to, or the illegal word's outcome. -/
def cmdWrite (v : Word) (s : State) : Result :=
  match decode v with
  | .ok i => exec i s
  | .error _ => .next (illegalCommand s)

/-- write_effect (20_memory.md R206, R209): the complete list of write effects; a write to a read-only register has
none. -/
def writeRegister (v : Word) (s : State) : Register → Result
  | .ctrl => .next (ctrlWrite v s)
  | .status => .next (statusWrite v s)
  | .cmd => cmdWrite v s
  | .txbuf j => .next { s with txbuf := storeWord j v s.txbuf }
  | .result => .next s
  | .rxsCount => .next s
  | .rxsSize => .next s
  | .txsCount => .next s
  | .txsSize => .next s
  | .trigThr => .next s
  | .sigrejCnt => .next s
  | .cfg0 => .next s
  | .cfg1 => .next s
  | .rxbuf _ => .next s

/-- BusWrite (20_memory.md R206): the register's effect, or BUSERR (60_exceptions.md R706). -/
def busWrite (width : Nat) (off : Offset) (v : Word) (s : State) : Result :=
  match busTarget width off with
  | some r => writeRegister v s r
  | none => .next (logFault (.busErr off .write) s)

end Sys2Proof.Machine
end

