-- ==== Sys2Proof/Machine/Agents.lean ====
section
/-! DEFINITION. The turns of the agents (00_scope.md R7, R8): the ENGINE's micro-step, the audio transactions
(41_sample_stream.md R411, R414), and what each scheduled turn does. -/

namespace Sys2Proof.Machine

/-- The ENGINE's step (00_scope.md R8, 60_exceptions.md R723): the micro-step of the command in progress. Without one,
and where TRANSMIT holds (70_reset_and_hazards.md R821), it has no step and nothing changes. -/
def engineStep (s : State) : Result :=
  if s.busy then
    match s.curop with
    | .none => .next s
    | .transmit => .next (emitWindow s)
    | .receive => receiveStep s
  else .next s

/-- AUDIO_IN (41_sample_stream.md R410, R411): PORTERR for a length that is not whole Samples, otherwise StreamWrite on
RXS. Without an audio device CAPTURE takes no step (60_exceptions.md R724). -/
def audioIn (data : List Byte) (s : State) : State :=
  if s.operational then
    if data.length % Config.sampleBytes = 0 then { s with rxs := s.rxs.write s.build.rxsBytes data }
    else logFault (.portErr .capture data.length) s
  else s

/-- AUDIO_OUT (41_sample_stream.md R410, R414): PORTERR for a length that is not whole Samples, otherwise the bytes of
TXS and then silence. Without an audio device PLAYBACK takes no step (60_exceptions.md R724). -/
def audioOut (length : Nat) (s : State) : Result :=
  if s.operational then
    if length % Config.sampleBytes = 0 then
      match s.txs.read s.build.txsBytes (min length s.txs.cnt) with
      | none => stopUnderflow (min length s.txs.cnt) s.txs.cnt s
      | some (bytes, txs) =>
        .next (giveBack (.audioOut (bytes ++ List.replicate (length - bytes.length) 0)) { s with txs := txs })
    else .next (logFault (.portErr .playback length) s)
  else .next s

/-- What one turn does. -/
def perform (a : Action) (s : State) : Result :=
  match a with
  | .busRead width off => .next (busRead width off s)
  | .busWrite width off v => busWrite width off v s
  | .engine => engineStep s
  | .audioIn data => .next (audioIn data s)
  | .audioOut length => audioOut length s
  | .reset audioOk => .next (resetEvent audioOk s)

/-- One turn of a legal build: the next scheduled turn, or the ENGINE's where none is scheduled
(notes/assumptions/3.md). -/
def takeTurn (s : State) : Result :=
  match s.schedule with
  | [] => engineStep s
  | a :: rest => perform a { s with schedule := rest }

end Sys2Proof.Machine
end

