-- ==== Sys2Proof/Machine/Step.lean ====
section
/-! DEFINITION. One step of the machine: one turn of one agent (00_scope.md R8, 20_memory.md R215). -/

namespace Sys2Proof.Machine

/-- A build that breaks a legality condition has no machine (00_scope.md R12); otherwise one turn is taken. -/
def step (s : State) : Host.Outcome State Fault Refusal :=
  if s.build.legal then takeTurn s else .refused .illegalBuild

/-- The state with a CMD write of the table's word as its next turn: the LMC fetches nothing (20_memory.md R202), and a
command comes from the HOST's write to CMD, offset 0x008 (10_state.md R113). See notes/assumptions/4.md. -/
def State.withFetchWord (s : State) (nbits w : Nat) : State :=
  { s with schedule := .busWrite 32 0x008#12 (tableWord nbits w) :: s.schedule }

end Sys2Proof.Machine
end

