-- ==== Sys2Proof/Machine/HostNotation.lean ====
section
/-! DEFINITION. The host program notation (30_encoding.md R325, R326): what a line of a host program schedules. -/

namespace Sys2Proof.Machine

/-- A line of a host program (30_encoding.md R325, R326). -/
inductive HostLine where
  /-- `WR32 off, v`. -/
  | wr32 (off : Offset) (v : Word)
  /-- `RD32 off -> name`. -/
  | rd32 (off : Offset)
  /-- `AUDIO_IN bytes`. -/
  | audioIn (data : List Byte)
  /-- `AUDIO_OUT n -> name`. -/
  | audioOut (length : Nat)
  /-- `TRANSMIT s`. -/
  | transmit (size : Nat)
  /-- `RECEIVE`. -/
  | receive
  /-- `WAITIDLE`, in a run in which its read of STATUS is made `polls` times (notes/assumptions/18.md). -/
  | waitIdle (polls : Nat)
  /-- `CLROVL`. -/
  | clrOvl
  /-- `LOADTX b0, b1, ...`. -/
  | loadTx (bytes : List Byte)
  deriving DecidableEq, Repr

/-- The word write of LOADTX's word j: missing bytes are 0 (30_encoding.md R326). -/
def loadTxWord (bytes : List Byte) (j : Nat) : Action :=
  .busWrite 32 (BitVec.ofNat 12 (0x100 + 4 * j)) (busWord (fun i => bytes.getD i 0) j)

/-- The turns of a line (30_encoding.md R325, R326). -/
def HostLine.expand : HostLine → List Action
  | .wr32 off v => [.busWrite 32 off v]
  | .rd32 off => [.busRead 32 off]
  | .audioIn data => [.audioIn data]
  | .audioOut length => [.audioOut length]
  | .transmit size => [.busWrite 32 0x008 (encode (.transmit size))]
  | .receive => [.busWrite 32 0x008 (encode .receive)]
  | .waitIdle polls => List.replicate polls (.busRead 32 0x004)
  | .clrOvl => [.busWrite 32 0x004 0x00000004]
  | .loadTx bytes => (List.range ((bytes.length + 3) / 4)).map (loadTxWord bytes)

/-- WAITIDLE goes on while bit 0 of the STATUS read is 1 (30_encoding.md R326). -/
def pollAgain (status : Word) : Bool := status.getLsbD 0

end Sys2Proof.Machine
end

