-- ==== Sys2Proof/Machine/RomFormula.lean ====
section
/-! DEFINITION. The twiddle ROM's formula (42_bit_codec.md R452), over the reals. The machine reads the build's tables;
this says what a conforming build stores. See notes/assumptions/5.md. -/

namespace Sys2Proof

/-- `r` is rha(x) = sign(x) * floor(abs(x) + 1/2) (42_bit_codec.md R452). -/
def IsRha (x : ℝ) (r : ℤ) : Prop := r = (SignType.sign x : ℤ) * ⌊|x| + 1 / 2⌋

/-- COSQ[j] = rha(TW_ONE * cos(2*pi*j / N)) and SINQ[j] = rha(TW_ONE * sin(2*pi*j / N)) for every j in 0..N-1
(42_bit_codec.md R452). -/
def RomFollowsFormula (b : Build) : Prop :=
  ∀ j : ℕ, j < b.N →
    IsRha (Config.twOne * Real.cos (2 * Real.pi * j / b.N)) (b.cosAt j)
      ∧ IsRha (Config.twOne * Real.sin (2 * Real.pi * j / b.N)) (b.sinAt j)

end Sys2Proof
end

