-- ==== Sys2Proof/Safety.lean ====
section
/-! DEFINITION. The terms of claims about runs: the invariant of the machine, group by group, a clean run
(60_exceptions.md R725), when the ENGINE has a step (00_scope.md R8), the end of a run (70_reset_and_hazards.md R850), and
runs without end with the premises of 70_reset_and_hazards.md R841. -/

namespace Sys2Proof.Machine

/-- A stream of capacity `cap` between steps: its count fits and is whole Samples (41_sample_stream.md R402), its read
index is inside and aligned (10_state.md R122, 20_memory.md R212), its storage is canonical and inside. -/
def StreamInv (cap : Nat) (s : Stream) : Prop :=
  s.cnt ≤ cap ∧ s.cnt % Config.sampleBytes = 0 ∧ s.rd < cap ∧ s.rd % Config.sampleBytes = 0
    ∧ s.buf.wf = true ∧ s.buf.within cap = true

/-- Both streams (10_state.md R121). -/
def StreamsInv (s : State) : Prop := StreamInv s.build.rxsBytes s.rxs ∧ StreamInv s.build.txsBytes s.txs

/-- The buffers are canonical and inside their sizes (10_state.md R119, R133, R141). -/
def BuffersInv (s : State) : Prop :=
  s.txbuf.wf = true ∧ s.txbuf.within 256 = true ∧ s.fb.wf = true ∧ s.fb.within s.build.frameBufferBytes = true
    ∧ s.tfb.wf = true ∧ s.tfb.within s.build.frameBufferBytes = true

/-- The command state: BUSY and CUROP agree (10_state.md R112), a command runs only on an operational LMC
(60_exceptions.md R724), RSIZE is 0 but for DELIVERED (10_state.md R114), and the transmitter's position keeps its
bounds (10_state.md R141). -/
def CommandInv (s : State) : Prop :=
  (s.busy = true ↔ s.curop ≠ .none) ∧ (s.busy = true → s.operational = true)
    ∧ (s.rsize ≠ 0 → s.rcode = .delivered)
    ∧ s.tnw ≤ 8 * s.build.multibytes 255 ∧ s.tidx ≤ s.tnw + 1 ∧ (s.curop = .transmit → s.tidx ≤ s.tnw)

/-- The trigger: THR is TRIGGER_LEVEL without the adaptive trigger (10_state.md R135), and abs of a Sample and twice it
bound VTRIG and THR (10_state.md R136, 43_sync_calibration.md R509). -/
def ThresholdInv (s : State) : Prop :=
  (s.adaptEn = false → s.thr = baseThreshold s.build) ∧ s.vtrig.toNat ≤ 32768 ∧ s.thr.toNat ≤ 65536

/-- Without an audio device the receiver never leaves SCANNING, no command runs and the streams stay empty
(60_exceptions.md R704, R709, R724). -/
def UnavailableInv (s : State) : Prop :=
  s.operational = false → s.busy = false ∧ s.rxst = .scanning ∧ s.rxs.cnt = 0 ∧ s.txs.cnt = 0

/-- The receiver is inside a Frame: HEADER or PAYLOAD (10_state.md R131). -/
def decoding (s : State) : Bool := s.rxst == .header || s.rxst == .payload

/-- The receiver has synchronized and not yet finished the Frame. -/
def inFrame (s : State) : Bool := decoding s || s.rxst == .validating

/-- The receiver's position: the buffers' lengths, WFILL (10_state.md R124), RWIDX (R132), RCVD (R133, 44_framing.md
R556), the signature bytes and the accumulating Multibyte of FB (R133, 46_receiver.md R665), and a positive calibration
(43_sync_calibration.md R508). -/
def ReceiverInv (s : State) : Prop :=
  s.wbuf.length = s.build.N ∧ s.cal.length = s.build.F
    ∧ s.wfill = (if s.rxst = .syncing ∧ s.rwidx = 0 then 1 else 0)
    ∧ (s.rxst = .scanning ∨ s.rxst = .validating → s.rwidx = 0)
    ∧ s.rcvd ≤ s.build.frameBufferBytes
    ∧ (s.rxst = .header → s.rcvd = s.build.F)
    ∧ (s.rxst = .payload → s.rcvd % s.build.F = 0 ∧ 2 * s.build.F ≤ s.rcvd
        ∧ s.rcvd < s.build.headerBytes + (receivedSize s).toNat)
    ∧ (s.rxst = .validating → s.rcvd % s.build.F = 0 ∧ s.build.headerBytes + (receivedSize s).toNat ≤ s.rcvd
        ∧ s.rcvd < s.build.headerBytes + (receivedSize s).toNat + s.build.F)
    ∧ (inFrame s = true → (∀ i, i < s.build.F → s.fb.read i = 0xFF) ∧ (∀ p ∈ s.cal, 0 < p))
    ∧ (decoding s = true → (∀ i, s.rcvd + s.build.F ≤ i → s.fb.read i = 0)
        ∧ (∀ c, c < s.build.F → (s.fb.read (s.rcvd + c)).toNat < 2 ^ s.rwidx.toNat))

/-- The invariant of the machine. -/
def Inv (s : State) : Prop :=
  StreamsInv s ∧ BuffersInv s ∧ CommandInv s ∧ ThresholdInv s ∧ UnavailableInv s ∧ ReceiverInv s

/-- `k` steps, stopping at the first fault or refusal. -/
def steps : Nat → State → Result
  | 0, s => .next s
  | k + 1, s =>
    match step s with
    | .next t => steps k t
    | .fault f => .fault f
    | .refused r => .refused r

/-- A run without a fault so far (60_exceptions.md R725). -/
def CleanRun (s : State) : Prop := s.faultLog = []

/-- The ENGINE has an enabled step (00_scope.md R8; 45_transmitter.md R605; 46_receiver.md R652). -/
def engineEnabled (s : State) : Bool :=
  s.busy && (s.curop == .receive
    || (s.curop == .transmit && decide (s.tidx ≤ s.tnw) && decide (s.build.windowBytes ≤ s.txs.free s.build.txsBytes)))

/-- The agent whose step a turn is; a reset is the platform's. -/
def Action.agent : Action → Option Agent
  | .busRead _ _ => some .host
  | .busWrite _ _ _ => some .host
  | .engine => some .engine
  | .audioIn _ => some .capture
  | .audioOut _ => some .playback
  | .reset _ => none

/-- The end of a run (70_reset_and_hazards.md R850): the HOST has no turn left, every AUDIO_IN has been taken, and no
command is in progress. Turns of PLAYBACK, of the ENGINE and resets may be left. -/
def runEnded (s : State) : Bool :=
  !s.busy && s.schedule.all fun a => decide (a.agent ≠ some .host) && decide (a.agent ≠ some .capture)

/-! ### Runs without end

A State lists finitely many turns. A run is any sequence of turns, finite lists or not: each step is a `step` of the machine
in a state that lists just the turn taken. So a run may hold an endless CAPTURE, an endless PLAYBACK or an ENGINE that is
never given a turn, and a HOST that chooses its next transaction from what it was given back. -/

/-- The state with `a` as its only listed turn. -/
def offer (a : Action) (s : State) : State := { s with schedule := [a] }

/-- A run: its states, its turns, and when the HOST's program has a next step (00_scope.md R8, 70_reset_and_hazards.md
R841). -/
structure Run where
  state : Nat → State
  turn : Nat → Action
  hostReady : Nat → Bool
  taken : ∀ k, step (offer (turn k) (state k)) = .next (state (k + 1))

/-- The agent has an enabled step at time `k` (70_reset_and_hazards.md R841, premise 1). -/
def Run.enabled (r : Run) (k : Nat) : Agent → Bool
  | .host => r.hostReady k
  | .engine => engineEnabled (r.state k)
  | .capture => (r.state k).operational
  | .playback => (r.state k).operational

/-- Premise 1, weak fairness: an agent whose step stays enabled eventually takes it (70_reset_and_hazards.md R841). -/
def Run.WeaklyFair (r : Run) : Prop :=
  ∀ g k, (∀ i, k ≤ i → r.enabled i g = true) → ∃ i, k ≤ i ∧ (r.turn i).agent = some g

/-- Premise 2, for TRANSMIT: PLAYBACK takes AUDIO_OUT steps of a Sample or more infinitely often
(70_reset_and_hazards.md R841). -/
def Run.PlaybackKeepsReading (r : Run) : Prop :=
  ∀ k, ∃ i n, k ≤ i ∧ r.turn i = .audioOut n ∧ Config.sampleBytes ≤ n ∧ n % Config.sampleBytes = 0

/-- A command has been in progress from the start of the run to time `k`. -/
def Run.busyTo (r : Run) (k : Nat) : Prop := ∀ i, i ≤ k → (r.state i).busy = true

/-- Premise 3, for RECEIVE: CAPTURE writes finitely many bytes during the command the run starts in
(70_reset_and_hazards.md R841). -/
def Run.CaptureIsFinite (r : Run) : Prop :=
  ∃ k, ∀ i data, k ≤ i → r.busyTo i → r.turn i = .audioIn data → data = []

/-- No reset is asserted. -/
def Run.NoReset (r : Run) : Prop := ∀ k ok, r.turn k ≠ .reset ok

/-- No agent logs a fault (60_exceptions.md R725). -/
def Run.Clean (r : Run) : Prop := ∀ k, CleanRun (r.state k)

/-- A hang (60_exceptions.md R725, its last row): from time `k` on a RECEIVE is in progress and never finishes, though the
ENGINE goes on taking steps. -/
def Run.HangsFrom (r : Run) (k : Nat) : Prop :=
  (∀ i, k ≤ i → (r.state i).busy = true ∧ (r.state i).curop = .receive)
    ∧ ∀ i, k ≤ i → ∃ j, i ≤ j ∧ r.turn j = .engine

/-- TRANSMIT is stuck from time `k` on (60_exceptions.md R725): in progress, and the ENGINE never has an enabled step. -/
def Run.StuckFrom (r : Run) (k : Nat) : Prop :=
  ∀ i, k ≤ i → (r.state i).busy = true ∧ (r.state i).curop = .transmit ∧ engineEnabled (r.state i) = false

/-- The run is over at time `k` (70_reset_and_hazards.md R850). -/
def Run.EndedAt (r : Run) (k : Nat) : Prop :=
  (r.state k).busy = false ∧ ∀ i, k ≤ i → r.hostReady i = false ∧ (r.turn i).agent ≠ some .host
    ∧ (r.turn i).agent ≠ some .capture

end Sys2Proof.Machine
end

