-- ==== Sys2Proof/Certificates/Slice0/Obligations.lean ====
section
/-! DEFINITION. The statements for the provers, from the numbered rules of spec/. -/

open Sys2Proof Sys2Proof.Machine

/-! ### Encoding -/

/-- Decoding and encoding agree: a word decodes to a command exactly where the command is well formed and the word is
its encoding, so no bit of a CMD word is dropped and no command has two words (30_encoding.md R320 to R323). -/
def Obligations.DecodeAndEncodeAgree : Prop :=
  ∀ (w : Word) (i : Instr), decode w = .ok i ↔ i.wf = true ∧ encode i = w

/-- The opcode map of 30_encoding.md R321 is the decoder's: a legal word matches exactly the row of its command, an
illegal word matches none. -/
def Obligations.OpcodeRowsAreTheDecoder : Prop :=
  (∀ w size, decode w = .ok (.transmit size) → (matchingRows w).map (·.mnemonic) = ["TRANSMIT"])
    ∧ (∀ w, decode w = .ok .receive → (matchingRows w).map (·.mnemonic) = ["RECEIVE"])
    ∧ (∀ w, legal w = false → matchingRows w = [])

/-- CMD words written out from 30_encoding.md R320 and R321, and what they decode to. -/
def Obligations.WrittenOutWordsDecode : Prop :=
  decode 0b00000000000000000000000000000001#32 = .ok (.transmit 0)
    ∧ decode 0b00000000000000000000000100000001#32 = .ok (.transmit 1)
    ∧ decode 0b00000000000000001111111100000001#32 = .ok (.transmit 255)
    ∧ decode 0b00000000000000000000000000000010#32 = .ok .receive
    ∧ decode 0b00000000000000000000000000000000#32 = .error (.reservedOp 0)
    ∧ decode 0b00000000000000000000000000000011#32 = .error (.reservedOp 3)
    ∧ decode 0b00000000000000000000000100000010#32 = .error (.receiveWithSize 1)
    ∧ decode 0b00000000000000000000000000010001#32 = .error .reservedBits
    ∧ decode 0b00000000000000010000000000000001#32 = .error .reservedBits

/-- `legal(w)` is the formula of 30_encoding.md R323. -/
def Obligations.LegalWordsAreTheRulesFormula : Prop :=
  ∀ w : Word, legal w = true ↔
    w &&& 0xFFFF00F0#32 = 0#32
      ∧ (w.extractLsb' 0 4 = 1#4 ∨ (w.extractLsb' 0 4 = 2#4 ∧ w.extractLsb' 8 8 = 0#8))

/-! ### Steps and builds -/

/-- Where the next turn is a 32-bit write of a legal word to CMD, the step is the decoded command's `exec` on the state
without that turn (60_exceptions.md R705, 20_memory.md R206). -/
def Obligations.StepRunsTheDecodedCommand : Prop :=
  ∀ (s : State) (w : Word) (i : Instr) (rest : List Action),
    s.build.legal = true → s.schedule = .busWrite 32 0x008#12 w :: rest → decode w = .ok i →
      step s = exec i { s with schedule := rest }

/-- The steps of a legal build are the turns of its schedule, in order, and the ENGINE's where none is left (the
model's choice of how a run is written down, log 3). -/
def Obligations.StepTakesTheNextTurn : Prop :=
  ∀ s : State, s.build.legal = true →
    (∀ a rest, s.schedule = a :: rest → step s = perform a { s with schedule := rest })
      ∧ (s.schedule = [] → step s = engineStep s)

/-- An illegal build has no machine (00_scope.md R12), a carrier at DC or at Nyquist makes a build illegal, and the
conditions of a legal build are those of 00_scope.md R11, the ROM being the one 42_bit_codec.md R452's formula gives. -/
def Obligations.IllegalBuildIsRefused : Prop :=
  (∀ s : State, s.build.legal = false → step s = .refused .illegalBuild)
    ∧ (∀ b : Build, 0 ∈ b.freq ∨ b.N / 2 ∈ b.freq → b.legal = false)
    ∧ (∀ b : Build, b.legal = true ↔
        0 < b.sampleRate ∧ 2 ∣ b.N ∧ 4 ≤ b.N ∧ b.N ≤ 65536 ∧ 1 ≤ b.F ∧ b.F ≤ min 255 (b.N / 2 - 1)
          ∧ b.freq.length = b.F ∧ (∀ k ∈ b.freq, 1 ≤ k ∧ k ≤ b.N / 2 - 1) ∧ b.freq.Nodup
          ∧ b.cosq.length = b.N ∧ b.sinq.length = b.N ∧ RomFollowsFormula b
          ∧ 1 ≤ b.encAmp ∧ b.F * b.encAmp ≤ 32767 ∧ b.triggerLevel ≤ 32767
          ∧ 0 < b.sp ∧ b.sp < b.sq ∧ b.sq ≤ 65535 ∧ 0 < b.dp ∧ b.dp < b.dq ∧ b.dq ≤ 65535
          ∧ 0 < b.np ∧ b.np ≤ b.nq ∧ b.nq ≤ 65535
          ∧ 2 ∣ b.rxsBytes ∧ b.N * 2 ≤ b.rxsBytes ∧ 2 ∣ b.txsBytes ∧ b.N * 2 ≤ b.txsBytes)

/-- No step of a legal build faults or is refused, whatever the state: the count test and the read of a stream are one
step, so StreamRead never meets n > count (41_sample_stream.md R412, 60_exceptions.md R725). -/
def Obligations.NoStepOfALegalBuildStops : Prop :=
  ∀ s : State, s.build.legal = true → ∃ t, step s = .next t ∧ t.build = s.build

/-! ### The two commands -/

/-- TRANSMIT issued to an idle, operational LMC: the Frame is built from TXBUF[0..size-1] into TFB, the rest of TFB is
0, TNW = 8 * M, TIDX = 0, BUSY = 1, CUROP = 1, and a later write to TXBUF changes none of them (45_transmitter.md
R602). -/
def Obligations.TransmitIssueBuildsTheFrame : Prop :=
  (∀ (s : State) (size : Nat), size ≤ 255 → s.busy = false → s.operational = true →
      ∃ t, exec (.transmit size) s = .next t
        ∧ t = { s with
            tfb := t.tfb, tnw := 8 * s.build.multibytes size, tidx := 0, busy := true, curop := .transmit }
        ∧ t.tfb.wf = true
        ∧ (∀ i, i < s.build.multibytes size * s.build.F →
            t.tfb.read i = frameByte s.build ((List.range size).map s.txbuf.read) size
              (hash16 s.build.digest ((List.range size).map s.txbuf.read)) i)
        ∧ (∀ i, s.build.multibytes size * s.build.F ≤ i → t.tfb.read i = 0))
    ∧ (∀ (s t : State) (off : Offset) (v : Word), 0x100 ≤ off.toNat → off.toNat < 0x200 →
        busWrite 32 off v s = .next t →
          t.tfb = s.tfb ∧ t.tnw = s.tnw ∧ t.tidx = s.tidx ∧ t.busy = s.busy ∧ t.curop = s.curop)

/-- RECEIVE issued to an idle, operational LMC sets BUSY and CUROP and changes nothing else (46_receiver.md R651). -/
def Obligations.ReceiveIssueOnlyStartsTheCommand : Prop :=
  ∀ s : State, s.busy = false → s.operational = true →
    exec .receive s = .next { s with busy := true, curop := .receive }

/-- What a command's issue leaves unchanged, accepted or not: every register but BUSY, CUROP, OVERLAP, RESULT and, for
TRANSMIT, TNW and TIDX; every byte of TXBUF, FB and both streams' stores; and every byte of TFB outside the frame buffer
TRANSMIT writes, all of it for RECEIVE (45_transmitter.md R602, 46_receiver.md R651, 60_exceptions.md R705). -/
def Obligations.CommandIssueFrame : Prop :=
  (∀ (s t : State) (size : Nat), s.build.legal = true → size ≤ 255 →
      s.tfb.within s.build.frameBufferBytes = true → exec (.transmit size) s = .next t →
      t = { s with
          tfb := t.tfb, tnw := t.tnw, tidx := t.tidx, busy := t.busy, curop := t.curop
          overlap := t.overlap, rcode := t.rcode, rsize := t.rsize }
        ∧ (∀ a, t.txbuf.read a = s.txbuf.read a ∧ t.fb.read a = s.fb.read a
            ∧ t.rxs.buf.read a = s.rxs.buf.read a ∧ t.txs.buf.read a = s.txs.buf.read a)
        ∧ (∀ a, s.build.frameBufferBytes ≤ a → t.tfb.read a = s.tfb.read a)
        ∧ (s.busy = true ∨ s.operational = false → ∀ a, t.tfb.read a = s.tfb.read a))
    ∧ (∀ s t : State, exec .receive s = .next t →
      t = { s with busy := t.busy, curop := t.curop, overlap := t.overlap, rcode := t.rcode, rsize := t.rsize }
        ∧ (∀ a, t.txbuf.read a = s.txbuf.read a ∧ t.fb.read a = s.fb.read a ∧ t.tfb.read a = s.tfb.read a
            ∧ t.rxs.buf.read a = s.rxs.buf.read a ∧ t.txs.buf.read a = s.txs.buf.read a))

/-- OVERLAP (60_exceptions.md R710): a CMD or CTRL write while BUSY = 1 sets it and has no other effect, and it stays 1
until a STATUS write with bit 2 = 1 or a reset. -/
def Obligations.OverlapIsStickyAndTheOnlyEffect : Prop :=
  (∀ (s : State) (v : Word), s.busy = true →
      busWrite 32 0x008#12 v s = .next { s with overlap := true }
        ∧ busWrite 32 0x000#12 v s = .next { s with overlap := true })
    ∧ (∀ (s : State) (i : Instr), s.busy = true → exec i s = .next { s with overlap := true })
    ∧ (∀ s t : State, s.overlap = true → step s = .next t → t.overlap = true
        ∨ (∃ v rest, s.schedule = .busWrite 32 0x004#12 v :: rest ∧ v.getLsbD 2 = true)
        ∨ (∃ ok rest, s.schedule = .reset ok :: rest))

/-- ILLEGAL_CMD (60_exceptions.md R707): which words are illegal, and that only RESULT changes. -/
def Obligations.IllegalWordWritesOnlyResult : Prop :=
  (∀ (s : State) (v : Word), s.busy = false → legal v = false →
      busWrite 32 0x008#12 v s = .next { s with rcode := .illegalCmd, rsize := 0 })
    ∧ ResultCode.illegalCmd.code = 6#4
    ∧ (∀ v : Word, v &&& 0xFFFF00F0#32 ≠ 0#32 → legal v = false)
    ∧ (∀ v : Word, v.extractLsb' 0 4 ≠ 1#4 → v.extractLsb' 0 4 ≠ 2#4 → legal v = false)
    ∧ (∀ v : Word, v.extractLsb' 0 4 = 2#4 → v.extractLsb' 8 8 ≠ 0#8 → legal v = false)
    ∧ legal 0x00000000#32 = false

/-- NOT_OPERATIONAL (60_exceptions.md R709): only RESULT changes; OPERATIONAL changes only at a reset, which samples
`audio_ok` (70_reset_and_hazards.md R802); writes to CTRL, STATUS and TXBUF are as with a device, and so are all reads,
but for STATUS's bit 1. -/
def Obligations.NotOperationalRefusesEveryCommand : Prop :=
  (∀ (s : State) (v : Word), s.busy = false → legal v = true → s.operational = false →
      busWrite 32 0x008#12 v s = .next { s with rcode := .notOperational, rsize := 0 })
    ∧ ResultCode.notOperational.code = 7#4
    ∧ (∀ s t : State, step s = .next t → t.operational ≠ s.operational →
        ∃ ok rest, s.schedule = .reset ok :: rest ∧ t.operational = ok)
    ∧ (∀ (s t : State) (ok : Bool) (off : Offset) (v : Word), off ≠ 0x008#12 → busWrite 32 off v s = .next t →
        busWrite 32 off v { s with operational := ok } = .next { t with operational := ok })
    ∧ (∀ (s : State) (ok : Bool) (r : Register), r ≠ .status →
        readRegister { s with operational := ok } r = readRegister s r)
    ∧ (∀ (s : State) (ok : Bool), readRegister { s with operational := ok } .status &&& ~~~2#32
        = readRegister s .status &&& ~~~2#32)

/-! ### The host bus -/

/-- BUSERR (60_exceptions.md R706): a transaction that is not 32 bits wide, not aligned or unmapped changes nothing of
the LMC and is logged with its offset and direction, and a read gives 0; every other transaction raises none. -/
def Obligations.BusErrorsAreLoggedAndChangeNothing : Prop :=
  (∀ (s : State) (width : Nat) (off : Offset) (v : Word),
      width ≠ 32 ∨ off.toNat % 4 ≠ 0 ∨ (0x030 ≤ off.toNat ∧ off.toNat ≤ 0x0FF) ∨ 0x300 ≤ off.toNat →
        busRead width off s = { s with
            faultLog := s.faultLog ++ [.busErr off .read], replies := s.replies ++ [.readData off 0] }
          ∧ busWrite width off v s = .next { s with faultLog := s.faultLog ++ [.busErr off .write] })
    ∧ (∀ (s : State) (off : Offset) (v : Word),
      off.toNat % 4 = 0 → off.toNat < 0x030 ∨ (0x100 ≤ off.toNat ∧ off.toNat < 0x300) →
        (busRead 32 off s).faultLog = s.faultLog
          ∧ ∃ t, busWrite 32 off v s = .next t ∧ t.faultLog = s.faultLog)

/-- No BusRead has a side effect, and a second read with no step between gives the same value (20_memory.md R208). -/
def Obligations.BusReadHasNoSideEffect : Prop :=
  ∀ (s : State) (width : Nat) (off : Offset),
    busRead width off s = { s with
        replies := (busRead width off s).replies, faultLog := (busRead width off s).faultLog }
      ∧ ∃ data, (busRead width off s).replies = s.replies ++ [.readData off data]
        ∧ (busRead width off (busRead width off s)).replies
            = s.replies ++ [.readData off data, .readData off data]

/-- The fields of the registers at their offsets (10_state.md R110 to R118), reserved bits reading 0, and the encodings of
RXST (R131), CUROP (R112) and RCODE (60_exceptions.md R702). A count or size of 2^32 bytes or more is left open: there the
register's value is free (the model's choice, log 21). -/
def Obligations.RegisterFieldsReadAtTheirOffsets : Prop :=
  (RxState.scanning.code = 0#3 ∧ RxState.syncing.code = 1#3 ∧ RxState.header.code = 2#3 ∧ RxState.payload.code = 3#3
    ∧ RxState.validating.code = 4#3)
  ∧ (CurOp.none.code = 0#2 ∧ CurOp.transmit.code = 1#2 ∧ CurOp.receive.code = 2#2)
  ∧ (ResultCode.none.code = 0#4 ∧ ResultCode.txDone.code = 1#4 ∧ ResultCode.noDataYet.code = 2#4
    ∧ ResultCode.delivered.code = 3#4 ∧ ResultCode.digestMismatch.code = 4#4 ∧ ResultCode.frameAborted.code = 5#4
    ∧ ResultCode.illegalCmd.code = 6#4 ∧ ResultCode.notOperational.code = 7#4)
  ∧ ∀ s : State,
    (∃ w, (busRead 32 0x000#12 s).replies = s.replies ++ [.readData 0x000#12 w]
        ∧ w.getLsbD 0 = s.nfSyncEn ∧ w.getLsbD 1 = s.nfDecEn ∧ w.getLsbD 2 = s.adaptEn
        ∧ w.extractLsb' 3 29 = 0#29)
      ∧ (∃ w, (busRead 32 0x004#12 s).replies = s.replies ++ [.readData 0x004#12 w]
        ∧ w.getLsbD 0 = s.busy ∧ w.getLsbD 1 = s.operational ∧ w.getLsbD 2 = s.overlap ∧ w.getLsbD 3 = false
        ∧ w.extractLsb' 4 3 = s.rxst.code ∧ w.getLsbD 7 = false ∧ w.extractLsb' 8 3 = s.rwidx
        ∧ w.getLsbD 11 = false ∧ w.extractLsb' 12 2 = s.curop.code ∧ w.extractLsb' 14 18 = 0#18)
      ∧ (busRead 32 0x008#12 s).replies = s.replies ++ [.readData 0x008#12 0#32]
      ∧ (∃ w, (busRead 32 0x00C#12 s).replies = s.replies ++ [.readData 0x00C#12 w]
        ∧ w.extractLsb' 0 4 = s.rcode.code ∧ w.extractLsb' 4 4 = 0#4 ∧ w.extractLsb' 8 8 = s.rsize
        ∧ w.extractLsb' 16 16 = 0#16)
      ∧ (∃ w, (busRead 32 0x010#12 s).replies = s.replies ++ [.readData 0x010#12 w]
        ∧ (s.rxs.cnt < 2 ^ 32 → w.toNat = s.rxs.cnt))
      ∧ (∃ w, (busRead 32 0x014#12 s).replies = s.replies ++ [.readData 0x014#12 w]
        ∧ (s.build.rxsBytes < 2 ^ 32 → w.toNat = s.build.rxsBytes))
      ∧ (∃ w, (busRead 32 0x018#12 s).replies = s.replies ++ [.readData 0x018#12 w]
        ∧ (s.txs.cnt < 2 ^ 32 → w.toNat = s.txs.cnt))
      ∧ (∃ w, (busRead 32 0x01C#12 s).replies = s.replies ++ [.readData 0x01C#12 w]
        ∧ (s.build.txsBytes < 2 ^ 32 → w.toNat = s.build.txsBytes))
      ∧ (∃ w, (busRead 32 0x020#12 s).replies = s.replies ++ [.readData 0x020#12 w] ∧ w.toNat = s.thr.toNat)
      ∧ (busRead 32 0x024#12 s).replies = s.replies ++ [.readData 0x024#12 s.sigrej]
      ∧ (s.build.legal = true →
        (∃ w, (busRead 32 0x028#12 s).replies = s.replies ++ [.readData 0x028#12 w] ∧ w.toNat = s.build.N)
          ∧ (∃ w, (busRead 32 0x02C#12 s).replies = s.replies ++ [.readData 0x02C#12 w]
            ∧ w.toNat = s.build.F + 256 * (s.build.F + 3)))

/-- A word access to TXBUF or RXBUF moves its four bytes, low byte first, for every word of either buffer; RXBUF shows
FB from H on and 0 past the frame buffer, and a write to it does nothing (20_memory.md R211, 10_state.md R119, R120). -/
def Obligations.BufferWordsMoveFourBytes : Prop :=
  ∀ (s : State) (j : Nat) (v : Word), j < 64 →
    (s.txbuf.wf = true → ∃ t, busWrite 32 (BitVec.ofNat 12 (0x100 + 4 * j)) v s = .next t
        ∧ t = { s with txbuf := t.txbuf } ∧ t.txbuf.wf = true
        ∧ (∀ i, i < 4 → t.txbuf.read (4 * j + i) = v.extractLsb' (8 * i) 8)
        ∧ (∀ a, a < 4 * j ∨ 4 * j + 4 ≤ a → t.txbuf.read a = s.txbuf.read a))
      ∧ (∃ w, (busRead 32 (BitVec.ofNat 12 (0x100 + 4 * j)) s).replies
            = s.replies ++ [.readData (BitVec.ofNat 12 (0x100 + 4 * j)) w]
          ∧ ∀ i, i < 4 → w.extractLsb' (8 * i) 8 = s.txbuf.read (4 * j + i))
      ∧ (∃ w, (busRead 32 (BitVec.ofNat 12 (0x200 + 4 * j)) s).replies
            = s.replies ++ [.readData (BitVec.ofNat 12 (0x200 + 4 * j)) w]
          ∧ ∀ i, i < 4 → w.extractLsb' (8 * i) 8
            = if s.build.F + 3 + (4 * j + i) < s.build.frameBufferBytes
              then s.fb.read (s.build.F + 3 + (4 * j + i)) else 0)
      ∧ busWrite 32 (BitVec.ofNat 12 (0x200 + 4 * j)) v s = .next s

/-- A CTRL write to an idle LMC sets the three policy bits, ignores bits 31:3 and reloads THR, even where it writes the
value CTRL holds (60_exceptions.md R705, 10_state.md R111, 70_reset_and_hazards.md R837). -/
def Obligations.CtrlWriteSetsThePoliciesAndReloadsThr : Prop :=
  ∀ (s : State) (v : Word), s.build.legal = true → s.busy = false →
    ∃ t, busWrite 32 0x000#12 v s = .next t
      ∧ t = { s with
          nfSyncEn := v.getLsbD 0, nfDecEn := v.getLsbD 1, adaptEn := v.getLsbD 2, thr := t.thr }
      ∧ t.thr.toNat = s.build.triggerLevel ∧ ctrlWord t = v &&& 7#32

/-- A STATUS write changes only OVERLAP, and only where bit 2 is 1, and a write to a read-only register changes nothing
(10_state.md R112, 20_memory.md R206). -/
def Obligations.StatusAndReadOnlyWrites : Prop :=
  ∀ (s : State) (v : Word),
    busWrite 32 0x004#12 v s = .next { s with overlap := s.overlap && !v.getLsbD 2 }
      ∧ ∀ off ∈ ([0x00C, 0x010, 0x014, 0x018, 0x01C, 0x020, 0x024, 0x028, 0x02C] : List Offset),
        busWrite 32 off v s = .next s

/-! ### Sample Streams -/

/-- A StreamWrite keeps the newest bytes in order: the stream holds the last CAP of what it held followed by the data,
and one that discards leaves it full. A StreamRead takes the oldest bytes and leaves the rest (41_sample_stream.md R411,
R412, R416). -/
def Obligations.StreamsKeepTheNewestInOrder : Prop :=
  ∀ (cap : Nat) (s : Stream), StreamInv cap s → cap % 2 = 0 →
    (∀ data : List Byte, data.length % 2 = 0 →
        (s.write cap data).contents cap
            = (s.contents cap ++ data).drop (s.cnt + data.length - cap)
          ∧ (cap < s.cnt + data.length → (s.write cap data).cnt = cap))
      ∧ (∀ n, n ≤ s.cnt → ∃ t, s.read cap n = some ((s.contents cap).take n, t)
          ∧ t.contents cap = (s.contents cap).drop n ∧ t.buf = s.buf)
      ∧ (∀ n, s.cnt < n → s.read cap n = none)

/-- The stream invariant of 41_sample_stream.md R402 holds after a reset of any legal build, and every step keeps it. -/
def Obligations.StreamInvariantIsKept : Prop :=
  (∀ (b : Build) (ok : Bool), b.legal = true → StreamsInv (State.start b ok))
    ∧ (∀ s t : State, StreamsInv s → step s = .next t → StreamsInv t)
    ∧ (∀ s : State, StreamsInv s → s.rxs.cnt ≤ s.build.rxsBytes ∧ s.rxs.cnt % 2 = 0
        ∧ s.txs.cnt ≤ s.build.txsBytes ∧ s.txs.cnt % 2 = 0)

/-- AUDIO_IN on an operational LMC appends its whole Samples to RXS with the overflow policy, changes nothing else and
completes whatever the ENGINE is doing (41_sample_stream.md R411, R415). -/
def Obligations.AudioInAppendsToRxs : Prop :=
  ∀ (s : State) (data : List Byte) (rest : List Action), s.build.legal = true → StreamsInv s →
    s.operational = true → data.length % 2 = 0 → s.schedule = .audioIn data :: rest →
      ∃ t, step s = .next t ∧ t = { s with schedule := rest, rxs := t.rxs }
        ∧ t.rxs.contents s.build.rxsBytes
          = (s.rxs.contents s.build.rxsBytes ++ data).drop (s.rxs.cnt + data.length - s.build.rxsBytes)

/-- AUDIO_OUT on an operational LMC gives the oldest bytes of TXS and then silence, n bytes in all, takes them from TXS
and changes nothing else; a length that is not whole Samples is a PORTERR (41_sample_stream.md R414). -/
def Obligations.AudioOutDrainsTxsWithSilence : Prop :=
  ∀ (s : State) (n : Nat) (rest : List Action), s.build.legal = true → StreamsInv s →
    s.operational = true → s.schedule = .audioOut n :: rest →
      (n % 2 = 0 → ∃ t, step s = .next t
          ∧ t = { s with
              schedule := rest, txs := t.txs
              replies := s.replies ++
                [.audioOut ((s.txs.contents s.build.txsBytes).take n ++ List.replicate (n - s.txs.cnt) 0)] }
          ∧ t.txs.contents s.build.txsBytes = (s.txs.contents s.build.txsBytes).drop n)
        ∧ (n % 2 ≠ 0 → step s = .next { s with
            schedule := rest, faultLog := s.faultLog ++ [.portErr .playback n] })

/-- PORTERR (60_exceptions.md R708): an audio transaction whose length is not whole Samples has no effect and is logged
with its agent and length. -/
def Obligations.PortErrorsAreLoggedAndChangeNothing : Prop :=
  (∀ (s : State) (data : List Byte), s.operational = true → data.length % 2 ≠ 0 →
      perform (.audioIn data) s = .next { s with faultLog := s.faultLog ++ [.portErr .capture data.length] })
    ∧ (∀ (s : State) (n : Nat), s.operational = true → n % 2 ≠ 0 →
      perform (.audioOut n) s = .next { s with faultLog := s.faultLog ++ [.portErr .playback n] })

/-- Without an audio device CAPTURE and PLAYBACK take no step, and the ENGINE has none while BUSY = 0
(60_exceptions.md R723, R724): a turn listed for such an agent passes with nothing changed (that it passes is the model's
choice, log 3 and log 14). -/
def Obligations.AgentsWithoutAStepChangeNothing : Prop :=
  (∀ (s : State) (data : List Byte), s.operational = false → perform (.audioIn data) s = .next s)
    ∧ (∀ (s : State) (n : Nat), s.operational = false → perform (.audioOut n) s = .next s)
    ∧ (∀ s : State, s.busy = false → perform .engine s = .next s)

/-! ### Codec -/

/-- Encode on a legal build never saturates or truncates, each Sample is the nearest integer to ENC_AMP times the sum of
the active carriers over TW_ONE (42_bit_codec.md R454: no tie arises), and the first Sample is ENC_AMP times the number of
active carriers (R455). -/
def Obligations.EncodeIsExact : Prop :=
  ∀ (b : Build) (bits : Multibit), b.legal = true → bits.length = b.F →
    (encodeWindow b bits).length = b.N
      ∧ (∀ n, n < b.N → ((encodeWindow b bits).getD n 0).toInt
          = roundDiv (b.encAmp * ((List.range b.F).map fun c =>
              if bits.getD c false then b.cosAt (b.freq.getD c 0 * n % b.N) else 0).sum) 32767)
      ∧ (∀ n, n < b.N → 2 * (32767 * ((encodeWindow b bits).getD n 0).toInt
          - b.encAmp * ((List.range b.F).map fun c =>
              if bits.getD c false then b.cosAt (b.freq.getD c 0 * n % b.N) else 0).sum).natAbs < 32767)
      ∧ ((encodeWindow b bits).getD 0 0).toInt = b.encAmp * (bits.count true : Nat)

/-- The silent Window (42_bit_codec.md R462): N zero Samples, Encode of the all-zero Multibit, and what a Multibyte
whose bytes all have bit k clear sends at position k. -/
def Obligations.SilentWindowIsTheZeroMultibit : Prop :=
  (∀ b : Build, silentWindow b = List.replicate b.N 0#16)
    ∧ (∀ b : Build, encodeWindow b (List.replicate b.F false) = silentWindow b)
    ∧ (∀ (b : Build) (frame : Memory) (m k dataWindows : Nat), k < 8 → 8 * m + k < dataWindows →
        (∀ c, c < b.F → (frame.read (m * b.F + c)).getLsbD k = false) →
          frameWindow b frame dataWindows (8 * m + k) = silentWindow b)

/-- Power is RE * RE + IM * IM, RE and IM the exact sums of 42_bit_codec.md R458 over the tapered Samples (R457), and on a
legal build the datapath keeps the widths of R460. -/
def Obligations.DatapathWidths : Prop :=
  (∀ (b : Build) (w : Window) (k : Nat), (power b w k : Int)
      = ((List.range b.N).map fun n =>
          (32767 - b.cosAt n) * (w.getD n 0).toInt * b.cosAt (k * n % b.N)).sum ^ 2
        + ((List.range b.N).map fun n =>
          (32767 - b.cosAt n) * (w.getD n 0).toInt * b.sinAt (k * n % b.N)).sum ^ 2) ∧
  ∀ (b : Build) (w : Window) (k : Nat), b.legal = true →
    (∀ n, (taperedSample b w n).natAbs < 2 ^ 31)
      ∧ (binReal b w k).natAbs < 2 ^ 62 ∧ (binImag b w k).natAbs < 2 ^ 62 ∧ power b w k < 2 ^ 125
      ∧ b.sq * b.sq * power b w k < 2 ^ 157 ∧ b.sp * b.sp * power b w k < 2 ^ 157
      ∧ b.dq * b.dq * power b w k < 2 ^ 157 ∧ b.dp * b.dp * power b w k < 2 ^ 157
      ∧ b.nq * b.nq * power b w k < 2 ^ 157 ∧ b.np * b.np * power b w k < 2 ^ 157

/-- Power's corner cases (42_bit_codec.md R458): a Window with no Sample but Sample 0 has power 0 at every bin of a
legal build, the silent Window too, and such a Window decodes to all 0 and fails the signature test (R461,
43_sync_calibration.md R505). -/
def Obligations.PowerlessWindows : Prop :=
  ∀ (b : Build) (w : Window), b.legal = true → (∀ n, 0 < n → w.getD n 0 = 0) →
    (∀ k, power b w k = 0) ∧ (∀ cal, decodeMultibit b w cal = List.replicate b.F false)
      ∧ ∀ nf, sigCheck b nf w = false

/-- Comparing powers is comparing magnitudes (42_bit_codec.md R459), in each of the three threshold tests: the bit
decision (R461), the carrier test (43_sync_calibration.md R505) and the noise-floor check (R464), a magnitude being the
square root of a power and the reference of the last two the largest power over the bins 1 to N/2 - 1 (R463). -/
def Obligations.ThresholdTestsCompareMagnitudes : Prop :=
  ∀ (b : Build) (w : Window), b.legal = true →
    (∀ k, 1 ≤ k → k < b.N / 2 → power b w k ≤ windowMax b w)
      ∧ (∃ k, 1 ≤ k ∧ k < b.N / 2 ∧ windowMax b w = power b w k)
      ∧ (∀ (cal : List Nat) (c : Nat), c < b.F →
        ((decodeMultibit b w cal).getD c false = true
          ↔ (b.dp / b.dq : ℝ) * √(cal.getD c 0 : ℝ) < √(power b w (b.freq.getD c 0) : ℝ)))
      ∧ (carrierTest b w = true
          ↔ ∀ c, c < b.F → (b.sp / b.sq : ℝ) * √(windowMax b w : ℝ) < √(power b w (b.freq.getD c 0) : ℝ))
      ∧ (noiseOk b w = true
          ↔ ∀ k, 1 ≤ k → k < b.N / 2 → k ∉ b.freq →
            √(power b w k : ℝ) ≤ (b.np / b.nq : ℝ) * √(windowMax b w : ℝ))

/-! ### Synchronization -/

/-- ScanStep (46_receiver.md R653, 43_sync_calibration.md R502, R503): NO_DATA_YET under two bytes; otherwise the oldest
Sample is consumed, and one whose abs exceeds THR becomes Sample 0 of signature Window 0. -/
def Obligations.ScanStepConsumesOneSample : Prop :=
  ∀ s : State, s.busy = true → s.curop = .receive → s.rxst = .scanning →
    (s.rxs.cnt < 2 → engineStep s = .next { s with
        rcode := .noDataYet, rsize := 0, busy := false, curop := .none })
      ∧ (2 ≤ s.rxs.cnt → ∀ v : Sample,
        v = s.rxs.buf.read ((s.rxs.rd + 1) % s.build.rxsBytes) ++ s.rxs.buf.read (s.rxs.rd % s.build.rxsBytes) →
        ∃ t, engineStep s = .next t
          ∧ t.rxs = ⟨s.rxs.buf, (s.rxs.rd + 2) % s.build.rxsBytes, s.rxs.cnt - 2⟩
          ∧ (v.toInt.natAbs ≤ s.thr.toNat → t = { s with rxs := t.rxs })
          ∧ (s.thr.toNat < v.toInt.natAbs → t.vtrig.toNat = v.toInt.natAbs
              ∧ t = { s with
                  rxs := t.rxs, vtrig := t.vtrig, wbuf := s.wbuf.set 0 v, wfill := 1, rwidx := 0, rxst := .syncing }))

/-- SyncStep (43_sync_calibration.md R507): NO_DATA_YET where the Window is not all there; otherwise the Window is the
held Samples followed by the next ones, consumed whole, and it is rejected, counted, or completes the
synchronization. SigCheck is the carrier test, and the noise-floor check exactly where NF_SYNC_EN = 1 (R506). -/
def Obligations.SyncStepTestsOneWindow : Prop :=
  (∀ (b : Build) (nf : Bool) (w : Window),
      sigCheck b nf w = true ↔ carrierTest b w = true ∧ (nf = false ∨ noiseOk b w = true)) ∧
  ∀ s : State, s.busy = true → s.curop = .receive → s.rxst = .syncing →
    (s.rxs.cnt < (s.build.N - s.wfill) * 2 → engineStep s = .next { s with
        rcode := .noDataYet, rsize := 0, busy := false, curop := .none })
      ∧ ((s.build.N - s.wfill) * 2 ≤ s.rxs.cnt → s.wfill ≤ s.build.N → s.wbuf.length = s.build.N →
        ∃ (w : Window) (u : State),
          w.length = s.build.N
            ∧ (∀ n, n < s.wfill → w.getD n 0 = s.wbuf.getD n 0)
            ∧ (∀ n, n < s.build.N - s.wfill → w.getD (s.wfill + n) 0
                = s.rxs.buf.read ((s.rxs.rd + (2 * n + 1)) % s.build.rxsBytes)
                  ++ s.rxs.buf.read ((s.rxs.rd + 2 * n) % s.build.rxsBytes))
            ∧ u = { s with
                wbuf := w, wfill := 0
                rxs := ⟨s.rxs.buf, (s.rxs.rd + (s.build.N - s.wfill) * 2) % s.build.rxsBytes,
                  s.rxs.cnt - (s.build.N - s.wfill) * 2⟩ }
            ∧ (sigCheck s.build s.nfSyncEn w = false → engineStep s = .next (rejectSignature u))
            ∧ (sigCheck s.build s.nfSyncEn w = true → s.rwidx.toNat < 7 →
                engineStep s = .next { u with rwidx := s.rwidx + 1 })
            ∧ (sigCheck s.build s.nfSyncEn w = true → s.rwidx.toNat = 7 →
                engineStep s = .next (synchronized w u)))

/-- Synchronized (43_sync_calibration.md R508): the calibration is the last signature Window's power at each carrier and
is positive, the frame buffer is the signature and zeros, and THR returns to TRIGGER_LEVEL. -/
def Obligations.SynchronizedCalibrates : Prop :=
  ∀ (s t : State) (w : Window), s.build.legal = true → sigCheck s.build s.nfSyncEn w = true → t = synchronized w s →
    t = { s with cal := t.cal, fb := t.fb, rcvd := s.build.F, rwidx := 0, thr := t.thr, rxst := .header }
      ∧ t.thr.toNat = s.build.triggerLevel ∧ t.cal.length = s.build.F
      ∧ (∀ c, c < s.build.F → t.cal.getD c 0 = power s.build w (s.build.freq.getD c 0) ∧ 0 < t.cal.getD c 0)
      ∧ (∀ i, t.fb.read i = if i < s.build.F then 0xFF else 0) ∧ t.fb.wf = true

/-- Reject, the SignatureRejected event (43_sync_calibration.md R509, 60_exceptions.md R703): the counter goes up modulo
2^32, THR doubles the trigger Sample's abs with the adaptive trigger, the receiver returns to SCANNING, the command goes
on and RESULT is not written. -/
def Obligations.RejectReturnsToScanning : Prop :=
  ∀ s t : State, t = rejectSignature s →
    t = { s with sigrej := t.sigrej, thr := t.thr, rxst := .scanning, rwidx := 0, wfill := 0 }
      ∧ t.sigrej.toNat = (s.sigrej.toNat + 1) % 2 ^ 32
      ∧ (s.adaptEn = true → t.thr.toNat = 2 * s.vtrig.toNat) ∧ (s.adaptEn = false → t.thr = s.thr)

/-- THR is TRIGGER_LEVEL after reset, Synchronized and every CTRL write that takes effect, and nothing else but Reject
with the adaptive trigger changes it (43_sync_calibration.md R510). -/
def Obligations.ThresholdChangesOnlyByItsRules : Prop :=
  (∀ (s : State) (ok : Bool), (resetEvent ok s).thr = BitVec.ofNat 17 s.build.triggerLevel)
    ∧ (∀ (s : State) (w : Window), (synchronized w s).thr = BitVec.ofNat 17 s.build.triggerLevel)
    ∧ (∀ (s t : State) (v : Word), s.busy = false → busWrite 32 0x000#12 v s = .next t →
        t.thr = BitVec.ofNat 17 s.build.triggerLevel)
    ∧ (∀ s t : State, step s = .next t → t.thr ≠ s.thr →
        (∃ ok rest, s.schedule = .reset ok :: rest)
          ∨ (∃ v rest, s.schedule = .busWrite 32 0x000#12 v :: rest ∧ s.busy = false)
          ∨ (s.rxst = .syncing ∧ t.rxst = .header ∧ t.thr = BitVec.ofNat 17 s.build.triggerLevel)
          ∨ (s.rxst = .syncing ∧ t.rxst = .scanning ∧ s.adaptEn = true ∧ t.sigrej = s.sigrej + 1
              ∧ t.thr.toNat = 2 * s.vtrig.toNat))

/-- Deafness (43_sync_calibration.md R513): with the adaptive trigger a rejected trigger Sample of abs at least 16384
sets THR to 32768 or more; then no Sample triggers, and the receiver stays in SCANNING with that THR until a CTRL write
or a reset. -/
def Obligations.AdaptiveDeafness : Prop :=
  (∀ s : State, s.adaptEn = true → 16384 ≤ s.vtrig.toNat → 32768 ≤ (rejectSignature s).thr.toNat)
    ∧ (∀ (thr : BitVec 17) (v : Sample), 32768 ≤ thr.toNat → triggers thr v = false)
    ∧ (∀ s t : State, s.rxst = .scanning → 32768 ≤ s.thr.toNat → step s = .next t →
        (t.rxst = .scanning ∧ t.thr = s.thr)
          ∨ (∃ v rest, s.schedule = .busWrite 32 0x000#12 v :: rest)
          ∨ (∃ ok rest, s.schedule = .reset ok :: rest))

/-- Silence (43_sync_calibration.md R514): while RXS holds only zero bytes and CAPTURE delivers only zero bytes, the
receiver never leaves SCANNING, whatever THR is. -/
def Obligations.SilenceNeverTriggers : Prop :=
  ∀ s t : State, StreamsInv s → s.rxst = .scanning → (∀ x ∈ s.rxs.contents s.build.rxsBytes, x = 0) →
    (∀ data rest, s.schedule = .audioIn data :: rest → ∀ x ∈ data, x = 0) → step s = .next t →
      t.rxst = .scanning ∧ (∀ x ∈ t.rxs.contents t.build.rxsBytes, x = 0)

/-! ### Framing -/

/-- BuildFrame (44_framing.md R554): M = ceil((H + s) / F) Multibytes: the signature, the size, the hash low byte first,
the payload and zero padding; the hash is D[0] with D[1] above it (R552). -/
def Obligations.FrameLayout : Prop :=
  ∀ (b : Build) (p : List Byte) (s : Nat), 1 ≤ b.F → p.length = s → s ≤ 255 →
    b.F + 3 + s ≤ b.multibytes s * b.F ∧ b.multibytes s * b.F < b.F + 3 + s + b.F
      ∧ (buildFrame b p s).length = b.multibytes s * b.F
      ∧ (∀ i, i < b.F → (buildFrame b p s).getD i 0 = 0xFF)
      ∧ (buildFrame b p s).getD b.F 0 = BitVec.ofNat 8 s
      ∧ (buildFrame b p s).getD (b.F + 1) 0 = (digestOf b.digest p)[0]
      ∧ (buildFrame b p s).getD (b.F + 2) 0 = (digestOf b.digest p)[1]
      ∧ (∀ i, i < s → (buildFrame b p s).getD (b.F + 3 + i) 0 = p.getD i 0)
      ∧ (∀ i, b.F + 3 + s ≤ i → (buildFrame b p s).getD i 0 = 0)
      ∧ hash16 b.digest p = ((digestOf b.digest p)[0]).setWidth 16 ||| ((digestOf b.digest p)[1]).setWidth 16 <<< 8

/-- The first eight Windows of every Frame carry bit 1 on every carrier (30_encoding.md R306). -/
def Obligations.SignatureDrivesEveryCarrier : Prop :=
  ∀ (b : Build) (p : List Byte) (s idx : Nat), 1 ≤ b.F → idx < 8 →
    windowBits b (Memory.ofBytes (buildFrame b p s)) idx = List.replicate b.F true

/-- AcceptFrame accepts a frame buffer that holds a built Frame and reads its payload back, and it accepts exactly where
the decoded payload's Hash16 is the decoded hash field (44_framing.md R557, R558). -/
def Obligations.AcceptFrameIsTheDigestGate : Prop :=
  (∀ (s : State) (p : List Byte), 1 ≤ s.build.F → p.length ≤ 255 →
      (∀ i, i < s.build.F + 3 + p.length → s.fb.read i = (buildFrame s.build p p.length).getD i 0) →
        acceptFrame s = true ∧ receivedPayload s = p ∧ (receivedSize s).toNat = p.length)
    ∧ (∀ s : State, acceptFrame s = true ↔
        (digestOf s.build.digest ((List.range (s.fb.read s.build.F).toNat).map
            fun i => s.fb.read (s.build.F + 3 + i)))[0] = s.fb.read (s.build.F + 1)
          ∧ (digestOf s.build.digest ((List.range (s.fb.read s.build.F).toNat).map
            fun i => s.fb.read (s.build.F + 3 + i)))[1] = s.fb.read (s.build.F + 2))

/-! ### TRANSMIT's micro-steps -/

/-- EmitWindow (45_transmitter.md R603): a hold without WB free bytes; otherwise the next Window's bytes are appended to
TXS, which never overflows, and the gap Window ends the command with TX_DONE. -/
def Obligations.EmitWindowAppendsOneWindow : Prop :=
  ∀ s : State, s.build.legal = true → StreamsInv s → s.busy = true → s.curop = .transmit → s.tidx ≤ s.tnw →
    (s.build.txsBytes - s.txs.cnt < s.build.N * 2 → engineStep s = .next s)
      ∧ (s.build.N * 2 ≤ s.build.txsBytes - s.txs.cnt → ∃ (t : State) (w : Window),
        engineStep s = .next t
          ∧ (s.tidx < s.tnw → w = encodeWindow s.build ((List.range s.build.F).map fun c =>
              (s.tfb.read (s.tidx / 8 * s.build.F + c)).getLsbD (s.tidx % 8)))
          ∧ (s.tidx = s.tnw → w = List.replicate s.build.N 0)
          ∧ t.txs.contents s.build.txsBytes = s.txs.contents s.build.txsBytes ++ bytesOfWindow w
          ∧ (∀ a, (∀ i, i < s.build.N * 2 → a ≠ (s.txs.rd + s.txs.cnt + i) % s.build.txsBytes) →
              t.txs.buf.read a = s.txs.buf.read a)
          ∧ (s.tidx < s.tnw → t = { s with txs := t.txs, tidx := s.tidx + 1 })
          ∧ (s.tidx = s.tnw → t = { s with
              txs := t.txs, tidx := s.tidx + 1, rcode := .txDone, rsize := 0, busy := false, curop := .none }))

/-- A TRANSMIT with room for its whole Frame in TXS, run to its end: 8 * M + 1 micro-steps after the issue append exactly
the Frame's (8 * M + 1) * WB bytes and finish with TX_DONE, and the receiver, CTRL, TXBUF and RXS are untouched
(45_transmitter.md R604, 44_framing.md R555). That the ENGINE moves where no turn is listed is the model's choice (log
3). -/
def Obligations.TransmitSendsTheWholeFrame : Prop :=
  ∀ (s : State) (size : Nat), s.build.legal = true → StreamsInv s → s.busy = false → s.operational = true →
    size ≤ 255 → s.schedule = [.busWrite 32 0x008#12 (encode (.transmit size))] →
    (8 * s.build.multibytes size + 1) * (s.build.N * 2) ≤ s.build.txsBytes - s.txs.cnt →
      ∃ t, steps (8 * s.build.multibytes size + 2) s = .next t
        ∧ t.txs.contents s.build.txsBytes
          = s.txs.contents s.build.txsBytes ++ wireBytes s.build ((List.range size).map s.txbuf.read) size
        ∧ (wireBytes s.build ((List.range size).map s.txbuf.read) size).length
          = (8 * s.build.multibytes size + 1) * (s.build.N * 2)
        ∧ t = { s with
            schedule := [], txs := t.txs, tfb := t.tfb, tnw := 8 * s.build.multibytes size
            tidx := 8 * s.build.multibytes size + 1, rcode := .txDone, rsize := 0, busy := false, curop := .none }

/-- The Frame in progress does not depend on TXBUF: an ENGINE step in a state with another TXBUF gives the same state
with that TXBUF (10_state.md R119, 70_reset_and_hazards.md R839). -/
def Obligations.EngineNeverReadsTxbuf : Prop :=
  ∀ (s : State) (m : Memory), ∃ t, engineStep s = .next t ∧ engineStep { s with txbuf := m } = .next { t with txbuf := m }

/-! ### RECEIVE's micro-steps -/

/-- A micro-step that needs more bytes than RXS holds finishes with NO_DATA_YET and keeps the receiver, and the next
RECEIVE continues from there: only RESULT differs (46_receiver.md R662). -/
def Obligations.NoDataYetKeepsTheReceiver : Prop :=
  ∀ s : State, s.busy = true → s.curop = .receive → s.operational = true →
    (s.rxst = .scanning ∧ s.rxs.cnt < 2)
        ∨ (s.rxst ≠ .scanning ∧ s.rxst ≠ .validating ∧ s.rxs.cnt < (s.build.N - s.wfill) * 2) →
      ∃ t, engineStep s = .next t
        ∧ t = { s with rcode := .noDataYet, rsize := 0, busy := false, curop := .none }
        ∧ exec .receive t = .next { s with rcode := .noDataYet, rsize := 0 }

/-- DecodeStep on a Window that is all in RXS (46_receiver.md R664, R665): the noise-floor abort stores no bit and
leaves FB, RCVD and CAL; otherwise each carrier's bit enters bit RWIDX of its byte, no other byte of FB changes, and the
eighth bit completes the Multibyte and decides between PAYLOAD and VALIDATING. -/
def Obligations.DecodeStepStoresOneMultibit : Prop :=
  ∀ s : State, s.busy = true → s.curop = .receive → s.rxst = .header ∨ s.rxst = .payload → s.fb.wf = true →
    s.wfill = 0 → s.build.N * 2 ≤ s.rxs.cnt →
      ∃ (t : State) (w : Window), engineStep s = .next t
        ∧ w = windowOfBytes ((s.rxs.contents s.build.rxsBytes).take (s.build.N * 2))
        ∧ t.rxs = ⟨s.rxs.buf, (s.rxs.rd + s.build.N * 2) % s.build.rxsBytes, s.rxs.cnt - s.build.N * 2⟩
        ∧ (s.nfDecEn = true → noiseOk s.build w = false → t = { s with
            rxs := t.rxs, wbuf := w, rxst := .scanning, rwidx := 0
            rcode := .frameAborted, rsize := 0, busy := false, curop := .none })
        ∧ (s.nfDecEn = false ∨ noiseOk s.build w = true →
            (∀ c, c < s.build.F → t.fb.read (s.rcvd + c) = s.fb.read (s.rcvd + c)
                ||| (if s.build.dp * s.build.dp * s.cal.getD c 0
                    < s.build.dq * s.build.dq * power s.build w (s.build.freq.getD c 0) then 1#8 <<< s.rwidx.toNat else 0#8))
              ∧ (∀ a, a < s.rcvd ∨ s.rcvd + s.build.F ≤ a → t.fb.read a = s.fb.read a)
              ∧ (s.rwidx.toNat < 7 → t = { s with
                  rxs := t.rxs, wbuf := w, fb := t.fb, rwidx := s.rwidx + 1 })
              ∧ (s.rwidx.toNat = 7 → t = { s with
                  rxs := t.rxs, wbuf := w, fb := t.fb, rwidx := 0, rcvd := s.rcvd + s.build.F
                  rxst := if s.build.F + 3 + (t.fb.read s.build.F).toNat ≤ s.rcvd + s.build.F
                    then .validating else .payload }))

/-- ValidateStep (46_receiver.md R666, R667, R668): SCANNING, and DELIVERED with the size where AcceptFrame holds, whose
RXBUF is the payload, or DIGEST_MISMATCH with size 0; it reads no data. -/
def Obligations.ValidateStepDeliversOrReports : Prop :=
  ∀ s : State, s.busy = true → s.curop = .receive → s.rxst = .validating →
    ∃ t, engineStep s = .next t
      ∧ t = { s with
          rxst := .scanning, rwidx := 0, rcode := t.rcode, rsize := t.rsize, busy := false, curop := .none }
      ∧ (acceptFrame s = true → t.rcode = .delivered ∧ t.rsize = s.fb.read s.build.F
          ∧ (1 ≤ s.build.F → ∀ i, i < t.rsize.toNat → rxbufByte t i = (receivedPayload s).getD i 0))
      ∧ (acceptFrame s = false → t.rcode = .digestMismatch ∧ t.rsize = 0)

/-- The RECEIVE micro-step never holds: it consumes bytes of RXS, moves the state machine or finishes the command
(46_receiver.md R652). -/
def Obligations.ReceiveNeverHolds : Prop :=
  ∀ s : State, s.build.legal = true → ReceiverInv s → s.busy = true → s.curop = .receive →
    ∃ t, engineStep s = .next t ∧ t ≠ s ∧ (t.rxs.cnt < s.rxs.cnt ∨ t.rxst ≠ s.rxst ∨ t.busy = false)

/-- A RECEIVE during which CAPTURE writes nothing finishes within as many ENGINE steps as RXS holds bytes, and two
(70_reset_and_hazards.md R841, premise 3). That the ENGINE moves where no turn is listed is the model's choice (log 3). -/
def Obligations.ReceiveFinishes : Prop :=
  ∀ s : State, s.build.legal = true → Inv s → s.busy = true → s.curop = .receive → s.schedule = [] →
    ∃ k t, k ≤ s.rxs.cnt + 2 ∧ steps k s = .next t ∧ t.busy = false ∧ t.curop = .none
      ∧ t.rcode ∈ [ResultCode.noDataYet, .delivered, .digestMismatch, .frameAborted]

/-- Round trip (46_receiver.md R671): at the reference build, with any stream capacities and any digest, both noise-floor
policies off, the receiver in SCANNING with THR = 2048, and RXS holding any number of zero Samples and then the bytes of
the Frame of a payload of 0 to 255 bytes, RECEIVE finishes with DELIVERED, that size and that payload. That the ENGINE
moves where no turn is listed is the model's choice (log 3). -/
def Obligations.RoundTripDeliversThePayload : Prop :=
  ∀ (s : State) (p : List Byte) (zeros : Nat),
    s.build = { referenceBuild with
      rxsBytes := s.build.rxsBytes, txsBytes := s.build.txsBytes, digest := s.build.digest } →
    s.build.legal = true → Inv s → s.operational = true → s.busy = false → s.nfSyncEn = false → s.nfDecEn = false →
    s.rxst = .scanning → s.thr.toNat = 2048 → p.length ≤ 255 →
    s.schedule = [.busWrite 32 0x008#12 (encode .receive)] →
    s.rxs.contents s.build.rxsBytes = List.replicate (2 * zeros) 0 ++ wireBytes s.build p p.length →
      ∃ k t, steps k s = .next t ∧ t.busy = false ∧ t.rcode = .delivered ∧ t.rsize.toNat = p.length
        ∧ t.rxst = .scanning ∧ ∀ i, i < p.length → rxbufByte t i = p.getD i 0

/-! ### Runs without end -/

/-- A TRANSMIT finishes with TX_DONE once all its Windows and the gap are written, in every weakly fair run without a reset
in which PLAYBACK keeps reading (70_reset_and_hazards.md R841, premises 1 and 2). -/
def Obligations.FairTransmitFinishes : Prop :=
  ∀ r : Run, (r.state 0).build.legal = true → Inv (r.state 0) → (r.state 0).busy = true →
    (r.state 0).curop = .transmit → r.WeaklyFair → r.PlaybackKeepsReading → r.NoReset →
      ∃ k, (∀ i, i < k → (r.state i).busy = true) ∧ (r.state k).busy = false ∧ (r.state k).curop = .none
        ∧ (r.state k).rcode = .txDone ∧ (r.state k).rsize = 0 ∧ (r.state k).tidx = (r.state 0).tnw + 1

/-- A RECEIVE finishes in every weakly fair run without a reset in which CAPTURE writes finitely many bytes during it
(70_reset_and_hazards.md R841, premises 1 and 3). -/
def Obligations.FairReceiveFinishes : Prop :=
  ∀ r : Run, (r.state 0).build.legal = true → Inv (r.state 0) → (r.state 0).busy = true →
    (r.state 0).curop = .receive → r.WeaklyFair → r.CaptureIsFinite → r.NoReset →
      ∃ k, (∀ i, i < k → (r.state i).busy = true) ∧ (r.state k).busy = false ∧ (r.state k).curop = .none
        ∧ (r.state k).rcode ∈ [ResultCode.noDataYet, .delivered, .digestMismatch, .frameAborted]

/-- The premises are needed (70_reset_and_hazards.md R841, 60_exceptions.md R725): there is a weakly fair clean run in which
a RECEIVE hangs while CAPTURE writes without end, and one in which a TRANSMIT stays stuck while PLAYBACK's requests are all
empty. -/
def Obligations.HangAndStuckRunsExist : Prop :=
  (∃ r : Run, (r.state 0).build.legal = true ∧ Inv (r.state 0) ∧ r.WeaklyFair ∧ r.PlaybackKeepsReading ∧ r.NoReset
      ∧ r.Clean ∧ r.HangsFrom 0 ∧ ∀ k, ∃ i data, k ≤ i ∧ r.turn i = .audioIn data ∧ data ≠ [])
    ∧ (∃ r : Run, (r.state 0).build.legal = true ∧ Inv (r.state 0) ∧ r.WeaklyFair ∧ r.NoReset ∧ r.Clean
      ∧ r.StuckFrom 0 ∧ ∀ k n, r.turn k = .audioOut n → n = 0)

/-- After the end of a run (70_reset_and_hazards.md R850) only TXS, what was given back and the fault log can still change,
without a reset. -/
def Obligations.AfterTheEndOnlyPlaybackMoves : Prop :=
  ∀ (r : Run) (k i : Nat), r.EndedAt k → r.NoReset → k ≤ i →
    r.state i = { r.state k with
      txs := (r.state i).txs, replies := (r.state i).replies, faultLog := (r.state i).faultLog
      schedule := (r.state i).schedule }

/-! ### Whole-machine rules -/

/-- RESULT changes only where a command finishes, where a command is refused at issue, or at a reset; while BUSY = 1 it
holds the previous result (10_state.md R114, 60_exceptions.md R711). -/
def Obligations.ResultChangesOnlyAtFinishRefusalOrReset : Prop :=
  ∀ s t : State, step s = .next t → t.rcode ≠ s.rcode ∨ t.rsize ≠ s.rsize →
    (s.busy = true ∧ t.busy = false ∧ t.curop = .none)
      ∨ (s.busy = false ∧ t.busy = false ∧ (t.rcode = .illegalCmd ∨ t.rcode = .notOperational)
          ∧ ∃ v rest, s.schedule = .busWrite 32 0x008#12 v :: rest)
      ∨ (∃ ok rest, s.schedule = .reset ok :: rest)

/-- What each agent may change (60_exceptions.md R721), the model's own fields apart: CAPTURE only RXS, PLAYBACK only TXS
without its bytes, the HOST neither a stream nor the receiver but THR, the ENGINE no policy bit, no TXBUF, TFB or TNW, no
OVERLAP, no OPERATIONAL. -/
def Obligations.AgentsKeepToTheirState : Prop :=
  (∀ (s t : State) (data : List Byte), perform (.audioIn data) s = .next t →
      t = { s with rxs := t.rxs, faultLog := t.faultLog })
    ∧ (∀ (s t : State) (n : Nat), perform (.audioOut n) s = .next t →
      t = { s with txs := t.txs, replies := t.replies, faultLog := t.faultLog } ∧ t.txs.buf = s.txs.buf)
    ∧ (∀ (s t : State) (width : Nat) (off : Offset), perform (.busRead width off) s = .next t →
      t = { s with replies := t.replies, faultLog := t.faultLog })
    ∧ (∀ (s t : State) (width : Nat) (off : Offset) (v : Word), perform (.busWrite width off v) s = .next t →
      t = { s with
        nfSyncEn := t.nfSyncEn, nfDecEn := t.nfDecEn, adaptEn := t.adaptEn, thr := t.thr, overlap := t.overlap
        txbuf := t.txbuf, rcode := t.rcode, rsize := t.rsize, busy := t.busy, curop := t.curop
        tfb := t.tfb, tnw := t.tnw, tidx := t.tidx, faultLog := t.faultLog })
    ∧ (∀ s t : State, perform .engine s = .next t →
      t = { s with
        txs := t.txs, rxs := t.rxs, wbuf := t.wbuf, wfill := t.wfill, cal := t.cal, rxst := t.rxst
        rwidx := t.rwidx, fb := t.fb, rcvd := t.rcvd, tidx := t.tidx, rcode := t.rcode, rsize := t.rsize
        busy := t.busy, curop := t.curop, sigrej := t.sigrej, thr := t.thr, vtrig := t.vtrig })

/-- The fault log keeps every entry for the whole run, a reset included, and a step that is no HOST or audio transaction
adds none (60_exceptions.md R725). -/
def Obligations.FaultLogOnlyGrows : Prop :=
  ∀ s t : State, step s = .next t →
    (t.faultLog = s.faultLog ∨ ∃ r, t.faultLog = s.faultLog ++ [r])
      ∧ (t.faultLog ≠ s.faultLog → ∃ a rest, s.schedule = a :: rest
          ∧ a ≠ .engine ∧ ∀ ok, a ≠ .reset ok)

/-- Reset (70_reset_and_hazards.md R801): at any time, every piece of state takes the value of the rule's table, and the
fault log stays. -/
def Obligations.ResetSetsEveryPieceOfState : Prop :=
  ∀ (s : State) (ok : Bool) (rest : List Action), s.build.legal = true → s.schedule = .reset ok :: rest →
    ∃ t, step s = .next t
      ∧ t.nfSyncEn = false ∧ t.nfDecEn = false ∧ t.adaptEn = false ∧ t.busy = false ∧ t.operational = ok
      ∧ t.overlap = false ∧ t.curop = .none ∧ t.rcode = .none ∧ t.rsize = 0
      ∧ (∀ a, t.rxs.buf.read a = 0) ∧ t.rxs.rd = 0 ∧ t.rxs.cnt = 0
      ∧ (∀ a, t.txs.buf.read a = 0) ∧ t.txs.rd = 0 ∧ t.txs.cnt = 0
      ∧ (∀ a, t.txbuf.read a = 0) ∧ t.wbuf = List.replicate s.build.N 0 ∧ t.wfill = 0
      ∧ t.cal = List.replicate s.build.F 0 ∧ t.rxst = .scanning ∧ t.rwidx = 0
      ∧ (∀ a, t.fb.read a = 0) ∧ t.rcvd = 0 ∧ t.thr.toNat = s.build.triggerLevel ∧ t.vtrig = 0 ∧ t.sigrej = 0
      ∧ (∀ a, t.tfb.read a = 0) ∧ t.tnw = 0 ∧ t.tidx = 0
      ∧ t.faultLog = s.faultLog ∧ State.reset.faultLog = [] ∧ t.build = s.build ∧ t.schedule = rest

/-- The invariant of the machine holds after a reset of any legal build. -/
def Obligations.InvariantHoldsAfterReset : Prop :=
  ∀ (b : Build) (ok : Bool), b.legal = true → Inv (State.start b ok)

/-- Every step keeps the invariant of the machine: the streams' counts, alignment and canonical storage (41_sample_stream
R402), the buffers' form, the command state (10_state.md R112, R114, R141), the trigger's bounds (R135, R136), the idle
receiver without a device (60_exceptions.md R704), and the receiver's position, frame buffer and calibration (10_state.md
R124, R125, R132, R133; 44_framing.md R556; 46_receiver.md R665). -/
def Obligations.StepKeepsTheInvariant : Prop :=
  ∀ s t : State, Inv s → step s = .next t → Inv t
end

