-- ==== Sys2Proof/Laws/Decode.lean ====
section
/-! SUPPORT. The small lemmas of the decoder. -/

namespace Sys2Proof

/-- A word is legal exactly where it decodes to some command. -/
theorem legal_iff (w : Word) : legal w = true ↔ ∃ i, decode w = .ok i := by
  unfold legal
  cases decode w with
  | ok i => simp [Except.isOk, Except.toBool]
  | error e => simp [Except.isOk, Except.toBool]

/-- Every decoded command is well formed. -/
theorem decode_wf {w : Word} {i : Instr} (h : decode w = .ok i) : i.wf = true := by
  unfold decode at h
  split at h
  · cases h
  · split at h
    · cases h
      have := (sizeField w).isLt
      simp [Instr.wf]; omega
    · split at h
      · split at h
        · cases h; rfl
        · cases h
      · cases h

end Sys2Proof
end

