-- ==== Sys2Proof/Laws/Memory.lean ====
section
/-! SUPPORT. The byte arrays: a read after a write, the canonical form and the bound every operation keeps, and that the
canonical form makes equal arrays equal data. -/

namespace Sys2Proof.Machine

theorem Memory.wfFrom_mono {lo lo' : Nat} {m : Memory} (hl : lo' ≤ lo) (h : Memory.wfFrom lo m = true) :
    Memory.wfFrom lo' m = true := by
  cases m with
  | nil => rfl
  | cons c rest =>
    simp only [Memory.wfFrom, Bool.and_eq_true, decide_eq_true_eq] at h ⊢
    exact ⟨⟨by omega, h.1.2⟩, h.2⟩

/-- Below the first index of a canonical array every byte is the unlisted one. -/
theorem Memory.read_below {lo a : Nat} {m : Memory} (h : Memory.wfFrom lo m = true) (ha : a < lo) :
    m.read a = Memory.unlisted := by
  induction m generalizing lo with
  | nil => rfl
  | cons c rest ih =>
    simp only [Memory.wfFrom, Bool.and_eq_true, decide_eq_true_eq] at h
    have hne : c.1 ≠ a := by omega
    rw [Memory.read, if_neg hne]
    exact ih h.2 (by omega)

theorem Memory.read_write_from {lo a : Nat} {m : Memory} (h : Memory.wfFrom lo m = true) (i : Nat) (v : Byte) :
    (m.write i v).read a = if a = i then v else m.read a := by
  induction m generalizing lo with
  | nil =>
    by_cases hv : v = Memory.unlisted <;> by_cases ha : a = i <;>
      simp [Memory.write, Memory.read, hv, ha, eq_comm]
  | cons c rest ih =>
    obtain ⟨k, u⟩ := c
    simp only [Memory.wfFrom, Bool.and_eq_true, decide_eq_true_eq] at h
    by_cases h1 : i < k
    · by_cases hv : v = Memory.unlisted
      · have hb : Memory.read ((k, u) :: rest) i = Memory.unlisted :=
          Memory.read_below (lo := k) (by simp [Memory.wfFrom, h.1.2, h.2]) h1
        by_cases ha : a = i
        · subst ha; rw [Memory.write, if_pos h1, if_pos hv, hb, if_pos rfl, hv]
        · rw [Memory.write, if_pos h1, if_pos hv, if_neg ha]
      · rw [Memory.write, if_pos h1, if_neg hv, Memory.read]
        by_cases ha : a = i
        · rw [if_pos ha.symm, if_pos ha]
        · rw [if_neg (Ne.symm ha), if_neg ha]
    · by_cases h2 : i = k
      · subst h2
        have hb : Memory.read rest i = Memory.unlisted := Memory.read_below h.2 (by omega)
        by_cases hv : v = Memory.unlisted
        · rw [Memory.write, if_neg h1, if_pos rfl, if_pos hv]
          by_cases ha : a = i
          · rw [ha, hb, if_pos rfl, hv]
          · rw [if_neg ha, Memory.read, if_neg (Ne.symm ha)]
        · rw [Memory.write, if_neg h1, if_pos rfl, if_neg hv]
          by_cases ha : a = i
          · rw [ha, if_pos rfl, Memory.read, if_pos rfl]
          · rw [if_neg ha, Memory.read, if_neg (Ne.symm ha), Memory.read, if_neg (Ne.symm ha)]
      · rw [Memory.write, if_neg h1, if_neg h2, Memory.read, Memory.read]
        by_cases hk : k = a
        · have : a ≠ i := by omega
          rw [if_pos hk, if_neg this, if_pos hk]
        · rw [if_neg hk, if_neg hk]
          exact ih h.2

/-- A read after a write: the byte written at its index, the byte before everywhere else. -/
theorem Memory.read_write {m : Memory} (h : m.wf = true) (a i : Nat) (v : Byte) :
    (m.write i v).read a = if a = i then v else m.read a := Memory.read_write_from h i v

theorem Memory.wfFrom_write {lo : Nat} {m : Memory} (h : Memory.wfFrom lo m = true) {i : Nat} (hi : lo ≤ i) (v : Byte) :
    Memory.wfFrom lo (m.write i v) = true := by
  induction m generalizing lo with
  | nil =>
    by_cases hv : v = Memory.unlisted
    · rw [Memory.write, if_pos hv]; rfl
    · rw [Memory.write, if_neg hv]; simp [Memory.wfFrom, hi, hv]
  | cons c rest ih =>
    obtain ⟨k, u⟩ := c
    simp only [Memory.wfFrom, Bool.and_eq_true, decide_eq_true_eq] at h
    rw [Memory.write]
    split
    · split
      · simp [Memory.wfFrom, h.1.1, h.1.2, h.2]
      · have : i + 1 ≤ k := by omega
        simp [Memory.wfFrom, h.1.2, h.2, *]
    · split
      · rename_i hik
        subst hik
        split
        · exact Memory.wfFrom_mono (by omega) h.2
        · simp [Memory.wfFrom, h.2, *]
      · simp only [Memory.wfFrom, Bool.and_eq_true, decide_eq_true_eq]
        exact ⟨h.1, ih h.2 (by omega)⟩

/-- A write keeps the canonical form. -/
theorem Memory.wf_write {m : Memory} (h : m.wf = true) (i : Nat) (v : Byte) : (m.write i v).wf = true :=
  Memory.wfFrom_write h (Nat.zero_le i) v

/-- A write inside a size keeps the array inside it. -/
theorem Memory.within_write {size : Nat} {m : Memory} (h : m.within size = true) {i : Nat} (hi : i < size) (v : Byte) :
    (m.write i v).within size = true := by
  induction m with
  | nil =>
    rw [Memory.write]
    split
    · rfl
    · simp [Memory.within, hi]
  | cons c rest ih =>
    obtain ⟨k, u⟩ := c
    simp only [Memory.within, List.all_cons, Bool.and_eq_true, decide_eq_true_eq] at h ih
    rw [Memory.write]
    split
    · split <;> simp [Memory.within, h.1, hi] <;> simpa using h.2
    · split
      · split
        · simpa [Memory.within] using h.2
        · simp only [Memory.within, List.all_cons, Bool.and_eq_true, decide_eq_true_eq]
          exact ⟨hi, h.2⟩
      · simp only [Memory.within, List.all_cons, Bool.and_eq_true, decide_eq_true_eq]
        exact ⟨h.1, ih h.2⟩

/-- Past the size of an array that lies inside it every byte is the unlisted one. -/
theorem Memory.read_of_within {size a : Nat} {m : Memory} (h : m.within size = true) (ha : size ≤ a) :
    m.read a = Memory.unlisted := by
  induction m with
  | nil => rfl
  | cons c rest ih =>
    simp only [Memory.within, List.all_cons, Bool.and_eq_true, decide_eq_true_eq] at h ih
    rw [Memory.read, if_neg (by omega)]
    exact ih h.2

theorem Memory.ext_from {lo : Nat} {m m' : Memory} (h : Memory.wfFrom lo m = true) (h' : Memory.wfFrom lo m' = true)
    (he : ∀ a, m.read a = m'.read a) : m = m' := by
  induction m generalizing lo m' with
  | nil =>
    cases m' with
    | nil => rfl
    | cons c rest =>
      simp only [Memory.wfFrom, Bool.and_eq_true, decide_eq_true_eq] at h'
      have hr := he c.1
      rw [Memory.read, Memory.read, if_pos rfl] at hr
      exact absurd hr.symm h'.1.2
  | cons c rest ih =>
    cases m' with
    | nil =>
      simp only [Memory.wfFrom, Bool.and_eq_true, decide_eq_true_eq] at h
      have hr := he c.1
      rw [Memory.read, Memory.read, if_pos rfl] at hr
      exact absurd hr h.1.2
    | cons c' rest' =>
      obtain ⟨k, u⟩ := c
      obtain ⟨k', u'⟩ := c'
      have hw := h
      have hw' := h'
      simp only [Memory.wfFrom, Bool.and_eq_true, decide_eq_true_eq] at h h'
      have hk : k = k' := by
        rcases Nat.lt_trichotomy k k' with hlt | heq | hlt
        · have hr := he k
          rw [Memory.read, if_pos rfl,
            Memory.read_below (lo := k') (m := (k', u') :: rest') (by simp [Memory.wfFrom, h'.1.2, h'.2]) hlt] at hr
          exact absurd hr h.1.2
        · exact heq
        · have hr := he k'
          rw [Memory.read_below (lo := k) (m := (k, u) :: rest) (by simp [Memory.wfFrom, h.1.2, h.2]) hlt,
            Memory.read, if_pos rfl] at hr
          exact absurd hr.symm h'.1.2
      subst hk
      have hu : u = u' := by
        have hr := he k
        rwa [Memory.read, Memory.read, if_pos rfl, if_pos rfl] at hr
      subst hu
      rw [ih h.2 h'.2 fun a => ?_]
      by_cases hak : k = a
      · subst hak
        rw [Memory.read_below h.2 (by omega), Memory.read_below h'.2 (by omega)]
      · have hr := he a
        rwa [Memory.read, Memory.read, if_neg hak, if_neg hak] at hr

/-- Two canonical arrays that read the same are the same data. -/
theorem Memory.ext {m m' : Memory} (h : m.wf = true) (h' : m'.wf = true) (he : ∀ a, m.read a = m'.read a) : m = m' :=
  Memory.ext_from h h' he

theorem Memory.wf_writeAll {m : Memory} (h : m.wf = true) (base : Nat) (vs : List Byte) :
    (m.writeAll base vs).wf = true := by
  induction vs generalizing m base with
  | nil => exact h
  | cons v vs ih => exact ih (Memory.wf_write h base v) (base + 1)

theorem Memory.within_writeAll {size base : Nat} {vs : List Byte} {m : Memory} (h : m.within size = true)
    (hb : base + vs.length ≤ size) : (m.writeAll base vs).within size = true := by
  induction vs generalizing m base with
  | nil => exact h
  | cons v vs ih =>
    simp only [List.length_cons] at hb
    exact ih (Memory.within_write h (by omega) v) (by omega)

/-- Bytes stored at consecutive indexes: each at its index, the byte before everywhere else. -/
theorem Memory.read_writeAll {m : Memory} (h : m.wf = true) (base a : Nat) (vs : List Byte) :
    (m.writeAll base vs).read a =
      if base ≤ a ∧ a < base + vs.length then vs.getD (a - base) 0 else m.read a := by
  induction vs generalizing m base with
  | nil =>
    rw [Memory.writeAll, if_neg]
    simp only [List.length_nil]; omega
  | cons v vs ih =>
    rw [Memory.writeAll, ih (Memory.wf_write h base v), Memory.read_write h]
    simp only [List.length_cons]
    by_cases h0 : a = base
    · subst h0
      rw [if_neg (by omega), if_pos rfl, if_pos (by omega), Nat.sub_self]; rfl
    · by_cases h1 : base + 1 ≤ a ∧ a < base + 1 + vs.length
      · rw [if_pos h1, if_pos (by omega)]
        have : a - base = (a - (base + 1)) + 1 := by omega
        rw [this]; rfl
      · rw [if_neg h1, if_neg h0, if_neg (by omega)]

theorem Memory.wf_ofBytes (vs : List Byte) : (Memory.ofBytes vs).wf = true := Memory.wf_writeAll (m := []) rfl 0 vs

theorem Memory.read_ofBytes (vs : List Byte) (a : Nat) : (Memory.ofBytes vs).read a = vs.getD a 0 := by
  rw [Memory.ofBytes, Memory.read_writeAll (m := []) rfl]
  by_cases h : a < vs.length
  · rw [if_pos ⟨by omega, by omega⟩, Nat.sub_zero]
  · rw [if_neg (by omega), List.getD, List.getElem?_eq_none (by omega)]; rfl

theorem Memory.within_ofBytes {size : Nat} {vs : List Byte} (h : vs.length ≤ size) :
    (Memory.ofBytes vs).within size = true := Memory.within_writeAll (m := []) rfl (by omega)

theorem wf_storeCircular {m : Memory} (h : m.wf = true) (cap at_ : Nat) (vs : List Byte) :
    (storeCircular cap at_ vs m).wf = true := by
  induction vs generalizing m at_ with
  | nil => exact h
  | cons v vs ih => exact ih (Memory.wf_write h _ v) (at_ + 1)

theorem within_storeCircular {cap : Nat} {m : Memory} (h : m.within cap = true) (hc : 0 < cap) (at_ : Nat)
    (vs : List Byte) : (storeCircular cap at_ vs m).within cap = true := by
  induction vs generalizing m at_ with
  | nil => exact h
  | cons v vs ih => exact ih (Memory.within_write h (Nat.mod_lt _ hc) v) (at_ + 1)

theorem wf_orMultibit {m : Memory} (h : m.wf = true) (k base : Nat) (bits : Multibit) :
    (orMultibit k base bits m).wf = true := by
  induction bits generalizing m base with
  | nil => exact h
  | cons bit bits ih => exact ih (Memory.wf_write h _ _) (base + 1)

theorem within_orMultibit {size k base : Nat} {bits : Multibit} {m : Memory} (h : m.within size = true)
    (hb : base + bits.length ≤ size) : (orMultibit k base bits m).within size = true := by
  induction bits generalizing m base with
  | nil => exact h
  | cons bit bits ih =>
    simp only [List.length_cons] at hb
    exact ih (Memory.within_write h (by omega) _) (by omega)

/-- The decoded bits enter bit `k` of their bytes; every other byte is as before. -/
theorem read_orMultibit {m : Memory} (h : m.wf = true) (k base a : Nat) (bits : Multibit) :
    (orMultibit k base bits m).read a =
      if base ≤ a ∧ a < base + bits.length then
        m.read a ||| (if bits.getD (a - base) false then 1#8 <<< k else 0#8)
      else m.read a := by
  induction bits generalizing m base with
  | nil =>
    rw [orMultibit, if_neg]
    simp only [List.length_nil]; omega
  | cons bit bits ih =>
    rw [orMultibit, ih (Memory.wf_write h base _), Memory.read_write h]
    simp only [List.length_cons]
    by_cases h0 : a = base
    · subst h0
      rw [if_neg (by omega : ¬(a + 1 ≤ a ∧ a < a + 1 + bits.length)), if_pos (rfl : a = a),
        if_pos (by omega : a ≤ a ∧ a < a + (bits.length + 1)), Nat.sub_self]; rfl
    · rw [if_neg h0]
      by_cases h1 : base + 1 ≤ a ∧ a < base + 1 + bits.length
      · rw [if_pos h1, if_pos (by omega : base ≤ a ∧ a < base + (bits.length + 1))]
        have : a - base = (a - (base + 1)) + 1 := by omega
        rw [this]; rfl
      · rw [if_neg h1, if_neg (by omega)]

/-- A word written to TXBUF keeps its form (20_memory.md R211). -/
theorem storeWord_wf {m : Memory} (h : m.wf = true) (j : Nat) (v : Word) : (storeWord j v m).wf = true :=
  Memory.wf_writeAll h _ _

theorem storeWord_within {m : Memory} (h : m.within 256 = true) {j : Nat} (hj : j < 64) (v : Word) :
    (storeWord j v m).within 256 = true := Memory.within_writeAll h (by simp; omega)

end Sys2Proof.Machine
end

