-- ==== Sys2Proof/Laws/PerInstr.lean ====
section
/-! SUPPORT. Families of facts about commands, one lemma per constructor. -/

namespace Sys2Proof.Laws

/-- The word of a well-formed command is legal (30_encoding.md R323). -/
def EncodesLegally.Statement (i : Instr) : Prop := i.wf = true → legal (encode i) = true

theorem EncodesLegally.transmit (size : Nat) : EncodesLegally.Statement (.transmit size) := by
  intro h
  have hall : ∀ n : Fin 256, legal (encode (.transmit n.val)) = true := by decide +kernel
  exact hall ⟨size, by simp only [Instr.wf, decide_eq_true_eq] at h; omega⟩

theorem EncodesLegally.receive : EncodesLegally.Statement .receive := fun _ => by decide

end Sys2Proof.Laws
end

