-- ==== Sys2Proof/Laws/Rom.lean ====
section
/-! SUPPORT. The check of a twiddle ROM decides the formula of 42_bit_codec.md R452: a winding counts the turns of a
multiple of an angle, so `compareCos` compares a cosine with a midpoint exactly, and a legal ROM is the formula's. -/

namespace Sys2Proof

open Machine Real

/-- The winding `w` is the angle `φ`: its whole turns, and the rest as a direction. -/
def Machine.Winding.At (D : ℤ) (φ : ℝ) (w : Winding) : Prop :=
  ∃ rest s : ℝ, 0 ≤ rest ∧ rest < 2 * π ∧ φ = 2 * π * w.turns + rest ∧ 0 < s
    ∧ (w.x : ℝ) = s * cos rest ∧ (w.y : ℝ) * √(D : ℝ) = s * sin rest

/-- The rest is half a turn or more exactly where `pastHalf` says so. -/
theorem pastHalf_iff {D : ℤ} (hD : 0 < D) {w : Winding} {rest s : ℝ} (h0 : 0 ≤ rest) (h2 : rest < 2 * π) (hs : 0 < s)
    (hx : (w.x : ℝ) = s * cos rest) (hy : (w.y : ℝ) * √(D : ℝ) = s * sin rest) : w.pastHalf = true ↔ π ≤ rest := by
  have hr : 0 < √(D : ℝ) := Real.sqrt_pos.mpr (by exact_mod_cast hD)
  simp only [Winding.pastHalf, Bool.or_eq_true, Bool.and_eq_true, decide_eq_true_eq]
  rcases lt_trichotomy rest π with hlt | heq | hgt
  · refine iff_of_false ?_ (by linarith)
    rcases h0.eq_or_lt with hz | hz
    · subst hz
      simp only [sin_zero, mul_zero, cos_zero, mul_one] at hx hy
      have hx' : (0 : ℝ) < w.x := by linarith
      have hy' : (w.y : ℝ) = 0 := by simpa [hr.ne'] using hy
      have hx'' : 0 < w.x := by exact_mod_cast hx'
      have hy'' : w.y = 0 := by exact_mod_cast hy'
      omega
    · have hpos : 0 < (w.y : ℝ) * √(D : ℝ) := by rw [hy]; exact mul_pos hs (sin_pos_of_pos_of_lt_pi hz hlt)
      have hy' : (0 : ℝ) < w.y := pos_of_mul_pos_left hpos hr.le
      have : 0 < w.y := by exact_mod_cast hy'
      omega
  · subst heq
    simp only [sin_pi, mul_zero, cos_pi, mul_neg, mul_one] at hx hy
    have hx' : (w.x : ℝ) < 0 := by linarith
    have hy' : (w.y : ℝ) = 0 := by simpa [hr.ne'] using hy
    have hx'' : w.x < 0 := by exact_mod_cast hx'
    have hy'' : w.y = 0 := by exact_mod_cast hy'
    exact iff_of_true (.inr ⟨hy'', hx''⟩) le_rfl
  · have hsin : sin rest < 0 := by
      have := sin_pos_of_pos_of_lt_pi (x := rest - π) (by linarith) (by linarith)
      rw [sin_sub_pi] at this
      linarith
    have hneg : (w.y : ℝ) * √(D : ℝ) < 0 := by rw [hy]; exact mul_neg_of_pos_of_neg hs hsin
    have hy' : (w.y : ℝ) < 0 := by nlinarith
    have : w.y < 0 := by exact_mod_cast hy'
    exact iff_of_true (.inl this) hgt.le

theorem Winding.At.double {D : ℤ} (hD : 0 < D) {φ : ℝ} {w : Winding} (h : w.At D φ) : (w.double D).At D (2 * φ) := by
  obtain ⟨rest, s, h0, h2, hφ, hs, hx, hy⟩ := h
  have hp := pastHalf_iff hD h0 h2 hs hx hy
  have hsq : √(D : ℝ) * √(D : ℝ) = D := Real.mul_self_sqrt (by exact_mod_cast hD.le)
  have hX : ((w.double D).x : ℝ) = s * s * cos (2 * rest) := by
    have : ((w.double D).x : ℝ) = w.x * w.x - (w.y * √(D : ℝ)) * (w.y * √(D : ℝ)) := by
      simp only [Winding.double]; push_cast
      linear_combination (w.y : ℝ) * w.y * hsq
    rw [this, hx, hy, cos_two_mul]
    linear_combination (-s * s) * sin_sq_add_cos_sq rest
  have hY : ((w.double D).y : ℝ) * √(D : ℝ) = s * s * sin (2 * rest) := by
    have : ((w.double D).y : ℝ) * √(D : ℝ) = 2 * (w.x * (w.y * √(D : ℝ))) := by
      simp only [Winding.double]; push_cast; ring
    rw [this, hx, hy, sin_two_mul]
    ring
  by_cases hhalf : π ≤ rest
  · refine ⟨2 * rest - 2 * π, s * s, by linarith, by linarith, ?_, mul_pos hs hs, ?_, ?_⟩
    · simp only [Winding.double, hp.mpr hhalf, if_true]
      push_cast
      rw [hφ]; ring
    · rw [hX, cos_sub_two_pi]
    · rw [hY, sin_sub_two_pi]
  · refine ⟨2 * rest, s * s, by linarith, by linarith, ?_, mul_pos hs hs, hX, hY⟩
    have hf : w.pastHalf = false := by rw [Bool.eq_false_iff]; exact fun hh => hhalf (hp.mp hh)
    simp only [Winding.double, hf]
    push_cast
    rw [hφ]; simp; ring

theorem Winding.At.advance {a D : ℤ} (hD : 0 < D) {ρ θ φ : ℝ} (hρ : 0 < ρ) (hθ0 : 0 < θ) (hθ1 : θ < π)
    (ha : (a : ℝ) = ρ * cos θ) (hd : √(D : ℝ) = ρ * sin θ) {w : Winding} (h : w.At D φ) :
    (w.advance a D).At D (φ + θ) := by
  obtain ⟨rest, s, h0, h2, hφ, hs, hx, hy⟩ := h
  have hp := pastHalf_iff hD h0 h2 hs hx hy
  have hsq : √(D : ℝ) * √(D : ℝ) = D := Real.mul_self_sqrt (by exact_mod_cast hD.le)
  set v : Winding := ⟨w.turns, a * w.x - D * w.y, w.x + a * w.y⟩ with hv
  have hX : (v.x : ℝ) = ρ * s * cos (rest + θ) := by
    have : (v.x : ℝ) = a * w.x - √(D : ℝ) * (w.y * √(D : ℝ)) := by
      simp only [hv]; push_cast
      linear_combination (w.y : ℝ) * hsq
    rw [this, hx, hy, ha, hd, cos_add]
    ring
  have hY : (v.y : ℝ) * √(D : ℝ) = ρ * s * sin (rest + θ) := by
    have : (v.y : ℝ) * √(D : ℝ) = w.x * √(D : ℝ) + a * (w.y * √(D : ℝ)) := by
      simp only [hv]; push_cast; ring
    rw [this, hx, hy, ha, hd, sin_add]
    ring
  have hρs : 0 < ρ * s := mul_pos hρ hs
  by_cases hwrap : rest + θ < 2 * π
  · have hpv := pastHalf_iff hD (by linarith) hwrap hρs hX hY
    have he : w.advance a D = v := by
      simp only [Winding.advance]
      rw [if_neg]
      rw [Bool.and_eq_true, Bool.not_eq_true', hp]
      rintro ⟨h1, h3⟩
      exact absurd (hpv.mpr (by linarith)) (by rw [show (⟨w.turns, a * w.x - D * w.y, w.x + a * w.y⟩ : Winding) = v from rfl] at h3; simp [h3])
    rw [he]
    exact ⟨rest + θ, ρ * s, by linarith, hwrap, by rw [hφ]; ring, hρs, hX, hY⟩
  · have hX' : (v.x : ℝ) = ρ * s * cos (rest + θ - 2 * π) := by rw [hX, cos_sub_two_pi]
    have hY' : (v.y : ℝ) * √(D : ℝ) = ρ * s * sin (rest + θ - 2 * π) := by rw [hY, sin_sub_two_pi]
    have hpv := pastHalf_iff hD (by linarith) (by linarith) hρs hX' hY'
    have hf : v.pastHalf = false := by
      rw [Bool.eq_false_iff]; exact fun hh => absurd (hpv.mp hh) (by linarith)
    have he : w.advance a D = { v with turns := w.turns + 1 } := by
      simp only [Winding.advance]
      rw [if_pos]
      rw [Bool.and_eq_true, Bool.not_eq_true']
      exact ⟨hp.mpr (by linarith), hf⟩
    rw [he]
    refine ⟨rest + θ - 2 * π, ρ * s, by linarith, by linarith, ?_, hρs, hX', hY'⟩
    push_cast
    rw [hφ]; ring

/-- `winding` is `n` times the angle. -/
theorem winding_at {a D : ℤ} (hD : 0 < D) {ρ θ : ℝ} (hρ : 0 < ρ) (hθ0 : 0 < θ) (hθ1 : θ < π)
    (ha : (a : ℝ) = ρ * cos θ) (hd : √(D : ℝ) = ρ * sin θ) (fuel n : ℕ) (hn : n ≤ fuel) :
    (winding a D fuel n).At D (n * θ) := by
  have hzero : (⟨0, 1, 0⟩ : Winding).At D ((0 : ℕ) * θ) := ⟨0, 1, le_rfl, by positivity, by simp, one_pos, by simp, by simp⟩
  induction fuel generalizing n with
  | zero => rw [Nat.le_zero.mp hn]; exact hzero
  | succ fuel ih =>
    unfold winding
    by_cases h0 : n = 0
    · rw [if_pos h0, h0]; exact hzero
    · rw [if_neg h0]
      have hdbl := Winding.At.double hD (ih (n / 2) (by omega))
      by_cases h1 : n % 2 = 1
      · simp only [if_pos h1]
        have := Winding.At.advance hD hρ hθ0 hθ1 ha hd hdbl
        rwa [show 2 * ((n / 2 : ℕ) * θ) + θ = n * θ by
          have : (n : ℝ) = 2 * (n / 2 : ℕ) + 1 := by exact_mod_cast (by omega : n = 2 * (n / 2) + 1)
          rw [this]; ring] at this
      · simp only [if_neg h1]
        rwa [show 2 * ((n / 2 : ℕ) * θ) = n * θ by
          have : (n : ℝ) = 2 * (n / 2 : ℕ) := by exact_mod_cast (by omega : n = 2 * (n / 2))
          rw [this]; ring] at hdbl

/-- A fraction of a turn in lowest terms, folded to at most half a turn, has the same cosine. -/
theorem cos_turn_folded {num den d n : ℕ} (hden : 0 < den) (hd : d = den / num.gcd den) (hn : n = num / num.gcd den % d) :
    0 < d ∧ min n (d - n) * 2 ≤ d
      ∧ cos (2 * π * num / den) = cos (2 * π * (min n (d - n) : ℕ) / d) := by
  have hg : 0 < num.gcd den := Nat.gcd_pos_of_pos_right _ hden
  obtain ⟨k, hk⟩ := Nat.gcd_dvd_right num den
  obtain ⟨l, hl⟩ := Nat.gcd_dvd_left num den
  generalize num.gcd den = g at hd hn hg hk hl
  have hdk : d = k := by rw [hd, hk, Nat.mul_div_cancel_left _ hg]
  have hnl : n = l % d := by rw [hn, hl, Nat.mul_div_cancel_left _ hg]
  have hd0 : 0 < d := by
    rw [hdk]; rcases Nat.eq_zero_or_pos k with h | h
    · rw [h] at hk; omega
    · exact h
  have hdR : (d : ℝ) ≠ 0 := by positivity
  have hgR : (g : ℝ) ≠ 0 := by positivity
  have hnd : n < d := by rw [hnl]; exact Nat.mod_lt _ hd0
  refine ⟨hd0, by omega, ?_⟩
  have h1 : (2 * π * num / den : ℝ) = 2 * π * n / d + (l / d : ℕ) * (2 * π) := by
    have hl' : (l : ℝ) = d * (l / d : ℕ) + n := by
      rw [hnl]; exact_mod_cast (Nat.div_add_mod l d).symm
    rw [hl, hk, ← hdk]; push_cast
    rw [hl']; field_simp; ring
  rw [h1, cos_add_nat_mul_two_pi]
  rcases Nat.le_total n (d - n) with h | h
  · rw [Nat.min_eq_left h]
  · rw [Nat.min_eq_right h, Nat.cast_sub hnd.le,
      show (2 * π * ((d : ℝ) - n) / d : ℝ) = 2 * π - 2 * π * n / d by field_simp, cos_two_pi_sub]

/-- `compareCos` compares the cosine with the midpoint. -/
theorem compareCos_eq {num den : ℕ} {a : ℤ} (hden : 0 < den) (hodd : a % 2 = 1) :
    compareCos num den a = cmp (65534 * cos (2 * π * num / den)) (a : ℝ) := by
  have hunit : midpointUnit = 65534 := rfl
  have hle : 65534 * cos (2 * π * num / den) ≤ 65534 := by nlinarith [cos_le_one (2 * π * num / den)]
  have hge : -65534 ≤ 65534 * cos (2 * π * num / den) := by nlinarith [neg_one_le_cos (2 * π * num / den)]
  unfold compareCos
  rw [hunit]
  by_cases h1 : (65534 : ℤ) < a
  · have : (65534 : ℝ) < a := by exact_mod_cast h1
    rw [if_pos h1, eq_comm, cmp_eq_lt_iff]
    linarith
  by_cases h2 : a < -65534
  · have : (a : ℝ) < -65534 := by exact_mod_cast h2
    rw [if_neg h1, if_pos h2, eq_comm, cmp_eq_gt_iff]
    linarith
  rw [if_neg h1, if_neg h2]
  have hlt : a < 65534 := by omega
  have hgt : -65534 < a := by omega
  have hltR : (a : ℝ) < 65534 := by exact_mod_cast hlt
  have hgtR : (-65534 : ℝ) < a := by exact_mod_cast hgt
  generalize hD : (65534 * 65534 - a * a : ℤ) = D
  have hDpos : 0 < D := by rw [← hD]; nlinarith
  have hDR : (D : ℝ) = 65534 * 65534 - a * a := by rw [← hD]; push_cast; ring
  set θ := arccos ((a : ℝ) / 65534) with hθ
  have hc : cos θ = (a : ℝ) / 65534 := cos_arccos (by rw [le_div_iff₀] <;> linarith) (by rw [div_le_iff₀] <;> linarith)
  have ha : (a : ℝ) = 65534 * cos θ := by rw [hc]; field_simp
  have hθ0 : 0 < θ := by rw [hθ, arccos_pos, div_lt_one (by norm_num)]; exact hltR
  have hθ1 : θ < π := by
    refine lt_of_le_of_ne (arccos_le_pi _) fun h => ?_
    have : cos θ = -1 := by rw [h, cos_pi]
    linarith
  have hsin : 0 < sin θ := sin_pos_of_pos_of_lt_pi hθ0 hθ1
  have hd : √(D : ℝ) = 65534 * sin θ := by
    rw [Real.sqrt_eq_iff_mul_self_eq (by exact_mod_cast hDpos.le) (by positivity), hDR, ha]
    nlinarith [sin_sq_add_cos_sq θ]
  obtain ⟨hd0, hm, hcos⟩ := cos_turn_folded (num := num) hden rfl rfl
  simp only []
  generalize den / num.gcd den = d at hd0 hm hcos ⊢
  generalize min (num / num.gcd den % d) (d - num / num.gcd den % d) = m at hm hcos ⊢
  obtain ⟨rest, s, hr0, hr2, hφ, hs, hx, hy⟩ := winding_at hDpos (by norm_num : (0 : ℝ) < 65534) hθ0 hθ1 ha hd d d le_rfl
  generalize winding a D d d = w at hφ hx hy ⊢
  rw [hcos]
  have hdR : (0 : ℝ) < d := by exact_mod_cast hd0
  have hα0 : 0 ≤ 2 * π * (m : ℝ) / d := by positivity
  have hα1 : 2 * π * (m : ℝ) / d ≤ π := by
    rw [div_le_iff₀ hdR]
    have : (m : ℝ) * 2 ≤ d := by exact_mod_cast hm
    nlinarith [pi_pos]
  have hanti := strictAntiOn_cos
  have hmemα : 2 * π * (m : ℝ) / d ∈ Set.Icc 0 π := ⟨hα0, hα1⟩
  have hmemθ : θ ∈ Set.Icc 0 π := ⟨hθ0.le, hθ1.le⟩
  rcases Nat.lt_trichotomy m w.turns with h | h | h
  · rw [if_pos h, eq_comm, cmp_eq_gt_iff, ha]
    have : (m : ℝ) + 1 ≤ w.turns := by exact_mod_cast h
    have hlt : 2 * π * (m : ℝ) / d < θ := by rw [div_lt_iff₀ hdR]; nlinarith [pi_pos]
    nlinarith [hanti hmemα hmemθ hlt]
  · subst h
    rw [if_neg (lt_irrefl _), if_pos rfl]
    have hsqrt : 0 < √(D : ℝ) := by rw [hd]; positivity
    rcases hr0.eq_or_lt with hz | hz
    · subst hz
      have hw : w.whole = true := by
        simp only [cos_zero, sin_zero, mul_one, mul_zero] at hx hy
        have hy' : (w.y : ℝ) = 0 := by simpa [hsqrt.ne'] using hy
        have hx' : (0 : ℝ) < w.x := by linarith
        simp only [Winding.whole, Bool.and_eq_true, decide_eq_true_eq]
        exact ⟨by exact_mod_cast hy', by exact_mod_cast hx'⟩
      rw [if_pos hw, eq_comm, cmp_eq_eq_iff, ha]
      have : 2 * π * (w.turns : ℝ) / d = θ := by rw [div_eq_iff hdR.ne']; linarith
      rw [this]
    · have hw : ¬ w.whole = true := by
        simp only [Winding.whole, Bool.and_eq_true, decide_eq_true_eq]
        rintro ⟨hy0, hx0⟩
        have hx' : (0 : ℝ) < w.x := by exact_mod_cast hx0
        rw [hy0] at hy
        have hsin0 : sin rest = 0 := by
          have : s * sin rest = 0 := by rw [← hy]; simp
          simpa [hs.ne'] using this
        have hcpos : 0 < cos rest := by
          have : 0 < s * cos rest := by rw [← hx]; exact hx'
          exact pos_of_mul_pos_right this hs.le
        rcases lt_trichotomy rest π with hl | he | hg
        · linarith [sin_pos_of_pos_of_lt_pi hz hl]
        · rw [he, cos_pi] at hcpos; linarith
        · have := sin_pos_of_pos_of_lt_pi (x := rest - π) (by linarith) (by linarith)
          rw [sin_sub_pi] at this; linarith
      rw [if_neg hw, eq_comm, cmp_eq_gt_iff, ha]
      have hlt : 2 * π * (w.turns : ℝ) / d < θ := by rw [div_lt_iff₀ hdR]; linarith
      nlinarith [hanti hmemα hmemθ hlt]
  · rw [if_neg (by omega), if_neg (by omega), eq_comm, cmp_eq_lt_iff, ha]
    have : (w.turns : ℝ) + 1 ≤ m := by exact_mod_cast h
    have hlt : θ < 2 * π * (m : ℝ) / d := by rw [lt_div_iff₀ hdR]; nlinarith [pi_pos]
    nlinarith [hanti hmemθ hmemα hlt]

/-- `q` is rha(x) exactly where x lies between the midpoints beside it, a midpoint going away from 0. -/
theorem isRha_iff {x : ℝ} {q : ℤ} : IsRha x q ↔
    (((2 * q - 1 : ℤ) : ℝ) < 2 * x ∨ (0 < q ∧ 2 * x = ((2 * q - 1 : ℤ) : ℝ)))
      ∧ (2 * x < ((2 * q + 1 : ℤ) : ℝ) ∨ (q < 0 ∧ 2 * x = ((2 * q + 1 : ℤ) : ℝ))) := by
  unfold IsRha
  push_cast
  rcases lt_trichotomy x 0 with hx | hx | hx
  · rw [sign_neg hx, abs_of_neg hx]
    simp only [SignType.coe_neg_one, neg_mul, one_mul]
    have hfl : q = -⌊-x + 1 / 2⌋ ↔ ⌊-x + 1 / 2⌋ = -q := by omega
    rw [hfl, Int.floor_eq_iff]
    push_cast
    constructor
    · rintro ⟨h1, h2⟩
      refine ⟨.inl (by linarith), ?_⟩
      rcases h1.lt_or_eq with h | h
      · exact .inl (by linarith)
      · exact .inr ⟨by
          have hq : q ≤ 0 := by
            have : (q : ℝ) < 1 := by linarith
            have : q < 1 := by exact_mod_cast this
            omega
          rcases hq.lt_or_eq with h' | h'
          · exact h'
          · subst h'; push_cast at h; linarith, by linarith⟩
    · rintro ⟨h1 | ⟨hq, h1⟩, h2 | ⟨hq', h2⟩⟩
      · exact ⟨by linarith, by linarith⟩
      · exact ⟨by linarith, by linarith⟩
      · have : (1 : ℝ) ≤ q := by exact_mod_cast hq
        linarith
      · omega
  · subst hx
    rw [show ((SignType.sign (0 : ℝ) : ℤ) * ⌊|(0 : ℝ)| + 1 / 2⌋) = 0 by simp, mul_zero]
    constructor
    · rintro rfl; norm_num
    · rintro ⟨h1 | ⟨hq, h1⟩, h2 | ⟨hq', h2⟩⟩
      · have a1 : q < 1 := by
          have : (q : ℝ) < 1 := by linarith
          exact_mod_cast this
        have a2 : -1 < q := by
          have : (-1 : ℝ) < q := by linarith
          exact_mod_cast this
        omega
      · exfalso
        have : (q : ℝ) ≤ -1 := by exact_mod_cast Int.le_sub_one_of_lt hq'
        linarith
      · exfalso
        have : (1 : ℝ) ≤ q := by exact_mod_cast hq
        linarith
      · omega
  · rw [sign_pos hx, abs_of_pos hx]
    simp only [SignType.coe_one, one_mul]
    rw [eq_comm, Int.floor_eq_iff]
    constructor
    · rintro ⟨h1, h2⟩
      refine ⟨?_, .inl (by linarith)⟩
      rcases h1.lt_or_eq with h | h
      · exact .inl (by linarith)
      · exact .inr ⟨by
          have hq : 0 ≤ q := by
            have : (-1 : ℝ) < q := by linarith
            have : -1 < q := by exact_mod_cast this
            omega
          rcases hq.lt_or_eq with h' | h'
          · exact h'
          · rw [← h'] at h; push_cast at h; linarith, by linarith⟩
    · rintro ⟨h1 | ⟨hq, h1⟩, h2 | ⟨hq', h2⟩⟩
      · exact ⟨by linarith, by linarith⟩
      · have : (q : ℝ) ≤ -1 := by exact_mod_cast Int.le_sub_one_of_lt hq'
        linarith
      · exact ⟨by linarith, by linarith⟩
      · omega

/-- The check of a ROM entry decides the formula. -/
theorem isRomEntry_iff {num den : ℕ} {q : ℤ} (hden : 0 < den) :
    isRomEntry num den q = true ↔ IsRha (Config.twOne * cos (2 * π * num / den)) q := by
  have h2 : 65534 * cos (2 * π * num / den) = 2 * ((Config.twOne : ℝ) * cos (2 * π * num / den)) := by
    simp only [Config.twOne]; push_cast; ring
  rw [isRha_iff, isRomEntry, compareCos_eq hden (by omega), compareCos_eq hden (by omega), h2]
  simp only [Bool.and_eq_true, Bool.or_eq_true, beq_iff_eq, decide_eq_true_eq, cmp_eq_gt_iff, cmp_eq_lt_iff, cmp_eq_eq_iff]

/-- The check of a build's ROM decides the formula (42_bit_codec.md R452). -/
theorem legalRom_iff {b : Build} (hN : 0 < b.N) :
    b.legalRom = true ↔ b.cosq.length = b.N ∧ b.sinq.length = b.N ∧ RomFollowsFormula b := by
  have hsin : ∀ j : ℕ, cos (2 * π * (4 * j + 3 * b.N : ℕ) / (4 * b.N : ℕ)) = sin (2 * π * j / b.N) := by
    intro j
    have hNR : (b.N : ℝ) ≠ 0 := by positivity
    rw [show (2 * π * (4 * j + 3 * b.N : ℕ) / (4 * b.N : ℕ) : ℝ) = 2 * π * j / b.N - π / 2 + 2 * π by
      push_cast; field_simp; ring, cos_add_two_pi, cos_sub_pi_div_two]
  unfold Build.legalRom RomFollowsFormula
  simp only [Bool.and_eq_true, decide_eq_true_eq, List.all_eq_true, List.mem_range, and_assoc]
  refine and_congr_right fun _ => and_congr_right fun _ => forall₂_congr fun j _ => ?_
  rw [isRomEntry_iff hN, isRomEntry_iff (by omega), hsin]

theorem isRha_natAbs_le {y : ℝ} {q : ℤ} (hy : |y| ≤ 1) (h : IsRha (Config.twOne * y) q) : q.natAbs ≤ Config.twOne := by
  have hx : |(Config.twOne : ℝ) * y| ≤ 32767 := by
    rw [abs_mul, show ((Config.twOne : ℕ) : ℝ) = 32767 by simp [Config.twOne], abs_of_pos (by norm_num)]; linarith
  have h0 : 0 ≤ ⌊|(Config.twOne : ℝ) * y| + 1 / 2⌋ := Int.floor_nonneg.mpr (by positivity)
  have h1 : ⌊|(Config.twOne : ℝ) * y| + 1 / 2⌋ < 32768 := by rw [Int.floor_lt]; push_cast; linarith
  have hs : (SignType.sign ((Config.twOne : ℝ) * y) : ℤ).natAbs ≤ 1 := by
    rcases SignType.sign ((Config.twOne : ℝ) * y) with _ | _ | _ <;> decide
  rw [h, Int.natAbs_mul]
  calc _ ≤ 1 * ⌊|(Config.twOne : ℝ) * y| + 1 / 2⌋.natAbs := Nat.mul_le_mul_right _ hs
    _ ≤ Config.twOne := by
        have ht : Config.twOne = 32767 := rfl
        omega

/-- No entry of a legal ROM exceeds TW_ONE in size (42_bit_codec.md R452). -/
theorem natAbs_rom_le {b : Build} (hN : 0 < b.N) (h : b.legalRom = true) (j : ℕ) :
    (b.cosAt j).natAbs ≤ Config.twOne ∧ (b.sinAt j).natAbs ≤ Config.twOne := by
  obtain ⟨hc, hs, hf⟩ := (legalRom_iff hN).mp h
  by_cases hj : j < b.N
  · exact ⟨isRha_natAbs_le (abs_cos_le_one _) (hf j hj).1, isRha_natAbs_le (abs_sin_le_one _) (hf j hj).2⟩
  · simp [Build.cosAt, Build.sinAt, List.getElem?_eq_none (by omega : b.cosq.length ≤ j),
      List.getElem?_eq_none (by omega : b.sinq.length ≤ j)]

theorem isRha_int {q r : ℤ} (h : IsRha (q : ℝ) r) : r = q := by
  rw [isRha_iff] at h
  push_cast at h
  obtain ⟨h1, h2⟩ := h
  have a1 : r < q + 1 := by
    rcases h1 with h | ⟨-, h⟩ <;> exact_mod_cast (by linarith : (r : ℝ) < q + 1)
  have a2 : q < r + 1 := by
    rcases h2 with h | ⟨-, h⟩ <;> exact_mod_cast (by linarith : (q : ℝ) < r + 1)
  omega

/-- The entries of a legal ROM at no turn and at half a turn (42_bit_codec.md R452). -/
theorem rom_at_axes {b : Build} (hN : 2 ≤ b.N) (he : b.N % 2 = 0) (h : b.legalRom = true) :
    b.cosAt 0 = Config.twOne ∧ b.sinAt 0 = 0 ∧ b.cosAt (b.N / 2) = -Config.twOne ∧ b.sinAt (b.N / 2) = 0 := by
  obtain ⟨-, -, hf⟩ := (legalRom_iff (by omega)).mp h
  have hNR : (b.N : ℝ) ≠ 0 := by positivity
  have ha : 2 * π * ((b.N / 2 : ℕ) : ℝ) / (b.N : ℝ) = π := by
    have : (b.N : ℝ) = 2 * (b.N / 2 : ℕ) := by exact_mod_cast (by omega : b.N = 2 * (b.N / 2))
    rw [div_eq_iff hNR]
    linear_combination (-π) * this
  have h0 := hf 0 (by omega)
  have h1 := hf (b.N / 2) (by omega)
  rw [ha] at h1
  simp only [Nat.cast_zero, mul_zero, zero_div, cos_zero, sin_zero, mul_one] at h0
  simp only [cos_pi, sin_pi, mul_zero, mul_neg, mul_one] at h1
  exact ⟨isRha_int (by exact_mod_cast h0.1), isRha_int (by exact_mod_cast h0.2),
    isRha_int (by push_cast; exact_mod_cast h1.1), isRha_int (by exact_mod_cast h1.2)⟩

/-- The reference build's twiddle ROM is the formula's (42_bit_codec.md R452). -/
theorem referenceBuild_romFollowsFormula : RomFollowsFormula referenceBuild :=
  ((legalRom_iff (by decide)).mp (by decide +kernel)).2.2

end Sys2Proof
end

