-- ==== Sys2Proof/Laws/State.lean ====
section
/-! SUPPORT. What each named update of the state does to each field, true by rfl, so that no later proof unfolds a
record update. -/

namespace Sys2Proof.Machine

/-! ### finish (R711) -/

@[simp] theorem finish_nfSyncEn (code : ResultCode) (size : Byte) (s : State) : (finish code size s).nfSyncEn = s.nfSyncEn := rfl
@[simp] theorem finish_nfDecEn (code : ResultCode) (size : Byte) (s : State) : (finish code size s).nfDecEn = s.nfDecEn := rfl
@[simp] theorem finish_adaptEn (code : ResultCode) (size : Byte) (s : State) : (finish code size s).adaptEn = s.adaptEn := rfl
@[simp] theorem finish_busy (code : ResultCode) (size : Byte) (s : State) : (finish code size s).busy = false := rfl
@[simp] theorem finish_operational (code : ResultCode) (size : Byte) (s : State) : (finish code size s).operational = s.operational := rfl
@[simp] theorem finish_overlap (code : ResultCode) (size : Byte) (s : State) : (finish code size s).overlap = s.overlap := rfl
@[simp] theorem finish_curop (code : ResultCode) (size : Byte) (s : State) : (finish code size s).curop = .none := rfl
@[simp] theorem finish_rcode (code : ResultCode) (size : Byte) (s : State) : (finish code size s).rcode = code := rfl
@[simp] theorem finish_rsize (code : ResultCode) (size : Byte) (s : State) : (finish code size s).rsize = size := rfl
@[simp] theorem finish_rxs (code : ResultCode) (size : Byte) (s : State) : (finish code size s).rxs = s.rxs := rfl
@[simp] theorem finish_txs (code : ResultCode) (size : Byte) (s : State) : (finish code size s).txs = s.txs := rfl
@[simp] theorem finish_txbuf (code : ResultCode) (size : Byte) (s : State) : (finish code size s).txbuf = s.txbuf := rfl
@[simp] theorem finish_wbuf (code : ResultCode) (size : Byte) (s : State) : (finish code size s).wbuf = s.wbuf := rfl
@[simp] theorem finish_wfill (code : ResultCode) (size : Byte) (s : State) : (finish code size s).wfill = s.wfill := rfl
@[simp] theorem finish_cal (code : ResultCode) (size : Byte) (s : State) : (finish code size s).cal = s.cal := rfl
@[simp] theorem finish_rxst (code : ResultCode) (size : Byte) (s : State) : (finish code size s).rxst = s.rxst := rfl
@[simp] theorem finish_rwidx (code : ResultCode) (size : Byte) (s : State) : (finish code size s).rwidx = s.rwidx := rfl
@[simp] theorem finish_fb (code : ResultCode) (size : Byte) (s : State) : (finish code size s).fb = s.fb := rfl
@[simp] theorem finish_rcvd (code : ResultCode) (size : Byte) (s : State) : (finish code size s).rcvd = s.rcvd := rfl
@[simp] theorem finish_thr (code : ResultCode) (size : Byte) (s : State) : (finish code size s).thr = s.thr := rfl
@[simp] theorem finish_vtrig (code : ResultCode) (size : Byte) (s : State) : (finish code size s).vtrig = s.vtrig := rfl
@[simp] theorem finish_sigrej (code : ResultCode) (size : Byte) (s : State) : (finish code size s).sigrej = s.sigrej := rfl
@[simp] theorem finish_tfb (code : ResultCode) (size : Byte) (s : State) : (finish code size s).tfb = s.tfb := rfl
@[simp] theorem finish_tnw (code : ResultCode) (size : Byte) (s : State) : (finish code size s).tnw = s.tnw := rfl
@[simp] theorem finish_tidx (code : ResultCode) (size : Byte) (s : State) : (finish code size s).tidx = s.tidx := rfl
@[simp] theorem finish_build (code : ResultCode) (size : Byte) (s : State) : (finish code size s).build = s.build := rfl
@[simp] theorem finish_schedule (code : ResultCode) (size : Byte) (s : State) : (finish code size s).schedule = s.schedule := rfl
@[simp] theorem finish_replies (code : ResultCode) (size : Byte) (s : State) : (finish code size s).replies = s.replies := rfl
@[simp] theorem finish_faultLog (code : ResultCode) (size : Byte) (s : State) : (finish code size s).faultLog = s.faultLog := rfl

/-! ### refuseCommand (R705) -/

@[simp] theorem refuseCommand_nfSyncEn (code : ResultCode) (s : State) : (refuseCommand code s).nfSyncEn = s.nfSyncEn := rfl
@[simp] theorem refuseCommand_nfDecEn (code : ResultCode) (s : State) : (refuseCommand code s).nfDecEn = s.nfDecEn := rfl
@[simp] theorem refuseCommand_adaptEn (code : ResultCode) (s : State) : (refuseCommand code s).adaptEn = s.adaptEn := rfl
@[simp] theorem refuseCommand_busy (code : ResultCode) (s : State) : (refuseCommand code s).busy = s.busy := rfl
@[simp] theorem refuseCommand_operational (code : ResultCode) (s : State) : (refuseCommand code s).operational = s.operational := rfl
@[simp] theorem refuseCommand_overlap (code : ResultCode) (s : State) : (refuseCommand code s).overlap = s.overlap := rfl
@[simp] theorem refuseCommand_curop (code : ResultCode) (s : State) : (refuseCommand code s).curop = s.curop := rfl
@[simp] theorem refuseCommand_rcode (code : ResultCode) (s : State) : (refuseCommand code s).rcode = code := rfl
@[simp] theorem refuseCommand_rsize (code : ResultCode) (s : State) : (refuseCommand code s).rsize = 0 := rfl
@[simp] theorem refuseCommand_rxs (code : ResultCode) (s : State) : (refuseCommand code s).rxs = s.rxs := rfl
@[simp] theorem refuseCommand_txs (code : ResultCode) (s : State) : (refuseCommand code s).txs = s.txs := rfl
@[simp] theorem refuseCommand_txbuf (code : ResultCode) (s : State) : (refuseCommand code s).txbuf = s.txbuf := rfl
@[simp] theorem refuseCommand_wbuf (code : ResultCode) (s : State) : (refuseCommand code s).wbuf = s.wbuf := rfl
@[simp] theorem refuseCommand_wfill (code : ResultCode) (s : State) : (refuseCommand code s).wfill = s.wfill := rfl
@[simp] theorem refuseCommand_cal (code : ResultCode) (s : State) : (refuseCommand code s).cal = s.cal := rfl
@[simp] theorem refuseCommand_rxst (code : ResultCode) (s : State) : (refuseCommand code s).rxst = s.rxst := rfl
@[simp] theorem refuseCommand_rwidx (code : ResultCode) (s : State) : (refuseCommand code s).rwidx = s.rwidx := rfl
@[simp] theorem refuseCommand_fb (code : ResultCode) (s : State) : (refuseCommand code s).fb = s.fb := rfl
@[simp] theorem refuseCommand_rcvd (code : ResultCode) (s : State) : (refuseCommand code s).rcvd = s.rcvd := rfl
@[simp] theorem refuseCommand_thr (code : ResultCode) (s : State) : (refuseCommand code s).thr = s.thr := rfl
@[simp] theorem refuseCommand_vtrig (code : ResultCode) (s : State) : (refuseCommand code s).vtrig = s.vtrig := rfl
@[simp] theorem refuseCommand_sigrej (code : ResultCode) (s : State) : (refuseCommand code s).sigrej = s.sigrej := rfl
@[simp] theorem refuseCommand_tfb (code : ResultCode) (s : State) : (refuseCommand code s).tfb = s.tfb := rfl
@[simp] theorem refuseCommand_tnw (code : ResultCode) (s : State) : (refuseCommand code s).tnw = s.tnw := rfl
@[simp] theorem refuseCommand_tidx (code : ResultCode) (s : State) : (refuseCommand code s).tidx = s.tidx := rfl
@[simp] theorem refuseCommand_build (code : ResultCode) (s : State) : (refuseCommand code s).build = s.build := rfl
@[simp] theorem refuseCommand_schedule (code : ResultCode) (s : State) : (refuseCommand code s).schedule = s.schedule := rfl
@[simp] theorem refuseCommand_replies (code : ResultCode) (s : State) : (refuseCommand code s).replies = s.replies := rfl
@[simp] theorem refuseCommand_faultLog (code : ResultCode) (s : State) : (refuseCommand code s).faultLog = s.faultLog := rfl

/-! ### raiseOverlap (R710) -/

@[simp] theorem raiseOverlap_nfSyncEn (s : State) : (raiseOverlap s).nfSyncEn = s.nfSyncEn := rfl
@[simp] theorem raiseOverlap_nfDecEn (s : State) : (raiseOverlap s).nfDecEn = s.nfDecEn := rfl
@[simp] theorem raiseOverlap_adaptEn (s : State) : (raiseOverlap s).adaptEn = s.adaptEn := rfl
@[simp] theorem raiseOverlap_busy (s : State) : (raiseOverlap s).busy = s.busy := rfl
@[simp] theorem raiseOverlap_operational (s : State) : (raiseOverlap s).operational = s.operational := rfl
@[simp] theorem raiseOverlap_overlap (s : State) : (raiseOverlap s).overlap = true := rfl
@[simp] theorem raiseOverlap_curop (s : State) : (raiseOverlap s).curop = s.curop := rfl
@[simp] theorem raiseOverlap_rcode (s : State) : (raiseOverlap s).rcode = s.rcode := rfl
@[simp] theorem raiseOverlap_rsize (s : State) : (raiseOverlap s).rsize = s.rsize := rfl
@[simp] theorem raiseOverlap_rxs (s : State) : (raiseOverlap s).rxs = s.rxs := rfl
@[simp] theorem raiseOverlap_txs (s : State) : (raiseOverlap s).txs = s.txs := rfl
@[simp] theorem raiseOverlap_txbuf (s : State) : (raiseOverlap s).txbuf = s.txbuf := rfl
@[simp] theorem raiseOverlap_wbuf (s : State) : (raiseOverlap s).wbuf = s.wbuf := rfl
@[simp] theorem raiseOverlap_wfill (s : State) : (raiseOverlap s).wfill = s.wfill := rfl
@[simp] theorem raiseOverlap_cal (s : State) : (raiseOverlap s).cal = s.cal := rfl
@[simp] theorem raiseOverlap_rxst (s : State) : (raiseOverlap s).rxst = s.rxst := rfl
@[simp] theorem raiseOverlap_rwidx (s : State) : (raiseOverlap s).rwidx = s.rwidx := rfl
@[simp] theorem raiseOverlap_fb (s : State) : (raiseOverlap s).fb = s.fb := rfl
@[simp] theorem raiseOverlap_rcvd (s : State) : (raiseOverlap s).rcvd = s.rcvd := rfl
@[simp] theorem raiseOverlap_thr (s : State) : (raiseOverlap s).thr = s.thr := rfl
@[simp] theorem raiseOverlap_vtrig (s : State) : (raiseOverlap s).vtrig = s.vtrig := rfl
@[simp] theorem raiseOverlap_sigrej (s : State) : (raiseOverlap s).sigrej = s.sigrej := rfl
@[simp] theorem raiseOverlap_tfb (s : State) : (raiseOverlap s).tfb = s.tfb := rfl
@[simp] theorem raiseOverlap_tnw (s : State) : (raiseOverlap s).tnw = s.tnw := rfl
@[simp] theorem raiseOverlap_tidx (s : State) : (raiseOverlap s).tidx = s.tidx := rfl
@[simp] theorem raiseOverlap_build (s : State) : (raiseOverlap s).build = s.build := rfl
@[simp] theorem raiseOverlap_schedule (s : State) : (raiseOverlap s).schedule = s.schedule := rfl
@[simp] theorem raiseOverlap_replies (s : State) : (raiseOverlap s).replies = s.replies := rfl
@[simp] theorem raiseOverlap_faultLog (s : State) : (raiseOverlap s).faultLog = s.faultLog := rfl

/-! ### logFault (R706, R708) -/

@[simp] theorem logFault_nfSyncEn (r : FaultRecord) (s : State) : (logFault r s).nfSyncEn = s.nfSyncEn := rfl
@[simp] theorem logFault_nfDecEn (r : FaultRecord) (s : State) : (logFault r s).nfDecEn = s.nfDecEn := rfl
@[simp] theorem logFault_adaptEn (r : FaultRecord) (s : State) : (logFault r s).adaptEn = s.adaptEn := rfl
@[simp] theorem logFault_busy (r : FaultRecord) (s : State) : (logFault r s).busy = s.busy := rfl
@[simp] theorem logFault_operational (r : FaultRecord) (s : State) : (logFault r s).operational = s.operational := rfl
@[simp] theorem logFault_overlap (r : FaultRecord) (s : State) : (logFault r s).overlap = s.overlap := rfl
@[simp] theorem logFault_curop (r : FaultRecord) (s : State) : (logFault r s).curop = s.curop := rfl
@[simp] theorem logFault_rcode (r : FaultRecord) (s : State) : (logFault r s).rcode = s.rcode := rfl
@[simp] theorem logFault_rsize (r : FaultRecord) (s : State) : (logFault r s).rsize = s.rsize := rfl
@[simp] theorem logFault_rxs (r : FaultRecord) (s : State) : (logFault r s).rxs = s.rxs := rfl
@[simp] theorem logFault_txs (r : FaultRecord) (s : State) : (logFault r s).txs = s.txs := rfl
@[simp] theorem logFault_txbuf (r : FaultRecord) (s : State) : (logFault r s).txbuf = s.txbuf := rfl
@[simp] theorem logFault_wbuf (r : FaultRecord) (s : State) : (logFault r s).wbuf = s.wbuf := rfl
@[simp] theorem logFault_wfill (r : FaultRecord) (s : State) : (logFault r s).wfill = s.wfill := rfl
@[simp] theorem logFault_cal (r : FaultRecord) (s : State) : (logFault r s).cal = s.cal := rfl
@[simp] theorem logFault_rxst (r : FaultRecord) (s : State) : (logFault r s).rxst = s.rxst := rfl
@[simp] theorem logFault_rwidx (r : FaultRecord) (s : State) : (logFault r s).rwidx = s.rwidx := rfl
@[simp] theorem logFault_fb (r : FaultRecord) (s : State) : (logFault r s).fb = s.fb := rfl
@[simp] theorem logFault_rcvd (r : FaultRecord) (s : State) : (logFault r s).rcvd = s.rcvd := rfl
@[simp] theorem logFault_thr (r : FaultRecord) (s : State) : (logFault r s).thr = s.thr := rfl
@[simp] theorem logFault_vtrig (r : FaultRecord) (s : State) : (logFault r s).vtrig = s.vtrig := rfl
@[simp] theorem logFault_sigrej (r : FaultRecord) (s : State) : (logFault r s).sigrej = s.sigrej := rfl
@[simp] theorem logFault_tfb (r : FaultRecord) (s : State) : (logFault r s).tfb = s.tfb := rfl
@[simp] theorem logFault_tnw (r : FaultRecord) (s : State) : (logFault r s).tnw = s.tnw := rfl
@[simp] theorem logFault_tidx (r : FaultRecord) (s : State) : (logFault r s).tidx = s.tidx := rfl
@[simp] theorem logFault_build (r : FaultRecord) (s : State) : (logFault r s).build = s.build := rfl
@[simp] theorem logFault_schedule (r : FaultRecord) (s : State) : (logFault r s).schedule = s.schedule := rfl
@[simp] theorem logFault_replies (r : FaultRecord) (s : State) : (logFault r s).replies = s.replies := rfl
@[simp] theorem logFault_faultLog (r : FaultRecord) (s : State) : (logFault r s).faultLog = s.faultLog ++ [r] := rfl

/-! ### giveBack (R851) -/

@[simp] theorem giveBack_nfSyncEn (r : Reply) (s : State) : (giveBack r s).nfSyncEn = s.nfSyncEn := rfl
@[simp] theorem giveBack_nfDecEn (r : Reply) (s : State) : (giveBack r s).nfDecEn = s.nfDecEn := rfl
@[simp] theorem giveBack_adaptEn (r : Reply) (s : State) : (giveBack r s).adaptEn = s.adaptEn := rfl
@[simp] theorem giveBack_busy (r : Reply) (s : State) : (giveBack r s).busy = s.busy := rfl
@[simp] theorem giveBack_operational (r : Reply) (s : State) : (giveBack r s).operational = s.operational := rfl
@[simp] theorem giveBack_overlap (r : Reply) (s : State) : (giveBack r s).overlap = s.overlap := rfl
@[simp] theorem giveBack_curop (r : Reply) (s : State) : (giveBack r s).curop = s.curop := rfl
@[simp] theorem giveBack_rcode (r : Reply) (s : State) : (giveBack r s).rcode = s.rcode := rfl
@[simp] theorem giveBack_rsize (r : Reply) (s : State) : (giveBack r s).rsize = s.rsize := rfl
@[simp] theorem giveBack_rxs (r : Reply) (s : State) : (giveBack r s).rxs = s.rxs := rfl
@[simp] theorem giveBack_txs (r : Reply) (s : State) : (giveBack r s).txs = s.txs := rfl
@[simp] theorem giveBack_txbuf (r : Reply) (s : State) : (giveBack r s).txbuf = s.txbuf := rfl
@[simp] theorem giveBack_wbuf (r : Reply) (s : State) : (giveBack r s).wbuf = s.wbuf := rfl
@[simp] theorem giveBack_wfill (r : Reply) (s : State) : (giveBack r s).wfill = s.wfill := rfl
@[simp] theorem giveBack_cal (r : Reply) (s : State) : (giveBack r s).cal = s.cal := rfl
@[simp] theorem giveBack_rxst (r : Reply) (s : State) : (giveBack r s).rxst = s.rxst := rfl
@[simp] theorem giveBack_rwidx (r : Reply) (s : State) : (giveBack r s).rwidx = s.rwidx := rfl
@[simp] theorem giveBack_fb (r : Reply) (s : State) : (giveBack r s).fb = s.fb := rfl
@[simp] theorem giveBack_rcvd (r : Reply) (s : State) : (giveBack r s).rcvd = s.rcvd := rfl
@[simp] theorem giveBack_thr (r : Reply) (s : State) : (giveBack r s).thr = s.thr := rfl
@[simp] theorem giveBack_vtrig (r : Reply) (s : State) : (giveBack r s).vtrig = s.vtrig := rfl
@[simp] theorem giveBack_sigrej (r : Reply) (s : State) : (giveBack r s).sigrej = s.sigrej := rfl
@[simp] theorem giveBack_tfb (r : Reply) (s : State) : (giveBack r s).tfb = s.tfb := rfl
@[simp] theorem giveBack_tnw (r : Reply) (s : State) : (giveBack r s).tnw = s.tnw := rfl
@[simp] theorem giveBack_tidx (r : Reply) (s : State) : (giveBack r s).tidx = s.tidx := rfl
@[simp] theorem giveBack_build (r : Reply) (s : State) : (giveBack r s).build = s.build := rfl
@[simp] theorem giveBack_schedule (r : Reply) (s : State) : (giveBack r s).schedule = s.schedule := rfl
@[simp] theorem giveBack_replies (r : Reply) (s : State) : (giveBack r s).replies = s.replies ++ [r] := rfl
@[simp] theorem giveBack_faultLog (r : Reply) (s : State) : (giveBack r s).faultLog = s.faultLog := rfl

/-! ### issueTransmit (R602) -/

@[simp] theorem issueTransmit_nfSyncEn (size : Nat) (s : State) : (issueTransmit size s).nfSyncEn = s.nfSyncEn := rfl
@[simp] theorem issueTransmit_nfDecEn (size : Nat) (s : State) : (issueTransmit size s).nfDecEn = s.nfDecEn := rfl
@[simp] theorem issueTransmit_adaptEn (size : Nat) (s : State) : (issueTransmit size s).adaptEn = s.adaptEn := rfl
@[simp] theorem issueTransmit_busy (size : Nat) (s : State) : (issueTransmit size s).busy = true := rfl
@[simp] theorem issueTransmit_operational (size : Nat) (s : State) : (issueTransmit size s).operational = s.operational := rfl
@[simp] theorem issueTransmit_overlap (size : Nat) (s : State) : (issueTransmit size s).overlap = s.overlap := rfl
@[simp] theorem issueTransmit_curop (size : Nat) (s : State) : (issueTransmit size s).curop = .transmit := rfl
@[simp] theorem issueTransmit_rcode (size : Nat) (s : State) : (issueTransmit size s).rcode = s.rcode := rfl
@[simp] theorem issueTransmit_rsize (size : Nat) (s : State) : (issueTransmit size s).rsize = s.rsize := rfl
@[simp] theorem issueTransmit_rxs (size : Nat) (s : State) : (issueTransmit size s).rxs = s.rxs := rfl
@[simp] theorem issueTransmit_txs (size : Nat) (s : State) : (issueTransmit size s).txs = s.txs := rfl
@[simp] theorem issueTransmit_txbuf (size : Nat) (s : State) : (issueTransmit size s).txbuf = s.txbuf := rfl
@[simp] theorem issueTransmit_wbuf (size : Nat) (s : State) : (issueTransmit size s).wbuf = s.wbuf := rfl
@[simp] theorem issueTransmit_wfill (size : Nat) (s : State) : (issueTransmit size s).wfill = s.wfill := rfl
@[simp] theorem issueTransmit_cal (size : Nat) (s : State) : (issueTransmit size s).cal = s.cal := rfl
@[simp] theorem issueTransmit_rxst (size : Nat) (s : State) : (issueTransmit size s).rxst = s.rxst := rfl
@[simp] theorem issueTransmit_rwidx (size : Nat) (s : State) : (issueTransmit size s).rwidx = s.rwidx := rfl
@[simp] theorem issueTransmit_fb (size : Nat) (s : State) : (issueTransmit size s).fb = s.fb := rfl
@[simp] theorem issueTransmit_rcvd (size : Nat) (s : State) : (issueTransmit size s).rcvd = s.rcvd := rfl
@[simp] theorem issueTransmit_thr (size : Nat) (s : State) : (issueTransmit size s).thr = s.thr := rfl
@[simp] theorem issueTransmit_vtrig (size : Nat) (s : State) : (issueTransmit size s).vtrig = s.vtrig := rfl
@[simp] theorem issueTransmit_sigrej (size : Nat) (s : State) : (issueTransmit size s).sigrej = s.sigrej := rfl
@[simp] theorem issueTransmit_tfb (size : Nat) (s : State) : (issueTransmit size s).tfb = Memory.ofBytes (buildFrame s.build (payloadOf size s) size) := rfl
@[simp] theorem issueTransmit_tnw (size : Nat) (s : State) : (issueTransmit size s).tnw = 8 * s.build.multibytes size := rfl
@[simp] theorem issueTransmit_tidx (size : Nat) (s : State) : (issueTransmit size s).tidx = 0 := rfl
@[simp] theorem issueTransmit_build (size : Nat) (s : State) : (issueTransmit size s).build = s.build := rfl
@[simp] theorem issueTransmit_schedule (size : Nat) (s : State) : (issueTransmit size s).schedule = s.schedule := rfl
@[simp] theorem issueTransmit_replies (size : Nat) (s : State) : (issueTransmit size s).replies = s.replies := rfl
@[simp] theorem issueTransmit_faultLog (size : Nat) (s : State) : (issueTransmit size s).faultLog = s.faultLog := rfl

/-! ### issueReceive (R651) -/

@[simp] theorem issueReceive_nfSyncEn (s : State) : (issueReceive s).nfSyncEn = s.nfSyncEn := rfl
@[simp] theorem issueReceive_nfDecEn (s : State) : (issueReceive s).nfDecEn = s.nfDecEn := rfl
@[simp] theorem issueReceive_adaptEn (s : State) : (issueReceive s).adaptEn = s.adaptEn := rfl
@[simp] theorem issueReceive_busy (s : State) : (issueReceive s).busy = true := rfl
@[simp] theorem issueReceive_operational (s : State) : (issueReceive s).operational = s.operational := rfl
@[simp] theorem issueReceive_overlap (s : State) : (issueReceive s).overlap = s.overlap := rfl
@[simp] theorem issueReceive_curop (s : State) : (issueReceive s).curop = .receive := rfl
@[simp] theorem issueReceive_rcode (s : State) : (issueReceive s).rcode = s.rcode := rfl
@[simp] theorem issueReceive_rsize (s : State) : (issueReceive s).rsize = s.rsize := rfl
@[simp] theorem issueReceive_rxs (s : State) : (issueReceive s).rxs = s.rxs := rfl
@[simp] theorem issueReceive_txs (s : State) : (issueReceive s).txs = s.txs := rfl
@[simp] theorem issueReceive_txbuf (s : State) : (issueReceive s).txbuf = s.txbuf := rfl
@[simp] theorem issueReceive_wbuf (s : State) : (issueReceive s).wbuf = s.wbuf := rfl
@[simp] theorem issueReceive_wfill (s : State) : (issueReceive s).wfill = s.wfill := rfl
@[simp] theorem issueReceive_cal (s : State) : (issueReceive s).cal = s.cal := rfl
@[simp] theorem issueReceive_rxst (s : State) : (issueReceive s).rxst = s.rxst := rfl
@[simp] theorem issueReceive_rwidx (s : State) : (issueReceive s).rwidx = s.rwidx := rfl
@[simp] theorem issueReceive_fb (s : State) : (issueReceive s).fb = s.fb := rfl
@[simp] theorem issueReceive_rcvd (s : State) : (issueReceive s).rcvd = s.rcvd := rfl
@[simp] theorem issueReceive_thr (s : State) : (issueReceive s).thr = s.thr := rfl
@[simp] theorem issueReceive_vtrig (s : State) : (issueReceive s).vtrig = s.vtrig := rfl
@[simp] theorem issueReceive_sigrej (s : State) : (issueReceive s).sigrej = s.sigrej := rfl
@[simp] theorem issueReceive_tfb (s : State) : (issueReceive s).tfb = s.tfb := rfl
@[simp] theorem issueReceive_tnw (s : State) : (issueReceive s).tnw = s.tnw := rfl
@[simp] theorem issueReceive_tidx (s : State) : (issueReceive s).tidx = s.tidx := rfl
@[simp] theorem issueReceive_build (s : State) : (issueReceive s).build = s.build := rfl
@[simp] theorem issueReceive_schedule (s : State) : (issueReceive s).schedule = s.schedule := rfl
@[simp] theorem issueReceive_replies (s : State) : (issueReceive s).replies = s.replies := rfl
@[simp] theorem issueReceive_faultLog (s : State) : (issueReceive s).faultLog = s.faultLog := rfl

/-! ### triggerAction (R503) -/

@[simp] theorem triggerAction_nfSyncEn (v : Sample) (s : State) : (triggerAction v s).nfSyncEn = s.nfSyncEn := rfl
@[simp] theorem triggerAction_nfDecEn (v : Sample) (s : State) : (triggerAction v s).nfDecEn = s.nfDecEn := rfl
@[simp] theorem triggerAction_adaptEn (v : Sample) (s : State) : (triggerAction v s).adaptEn = s.adaptEn := rfl
@[simp] theorem triggerAction_busy (v : Sample) (s : State) : (triggerAction v s).busy = s.busy := rfl
@[simp] theorem triggerAction_operational (v : Sample) (s : State) : (triggerAction v s).operational = s.operational := rfl
@[simp] theorem triggerAction_overlap (v : Sample) (s : State) : (triggerAction v s).overlap = s.overlap := rfl
@[simp] theorem triggerAction_curop (v : Sample) (s : State) : (triggerAction v s).curop = s.curop := rfl
@[simp] theorem triggerAction_rcode (v : Sample) (s : State) : (triggerAction v s).rcode = s.rcode := rfl
@[simp] theorem triggerAction_rsize (v : Sample) (s : State) : (triggerAction v s).rsize = s.rsize := rfl
@[simp] theorem triggerAction_rxs (v : Sample) (s : State) : (triggerAction v s).rxs = s.rxs := rfl
@[simp] theorem triggerAction_txs (v : Sample) (s : State) : (triggerAction v s).txs = s.txs := rfl
@[simp] theorem triggerAction_txbuf (v : Sample) (s : State) : (triggerAction v s).txbuf = s.txbuf := rfl
@[simp] theorem triggerAction_wbuf (v : Sample) (s : State) : (triggerAction v s).wbuf = s.wbuf.set 0 v := rfl
@[simp] theorem triggerAction_wfill (v : Sample) (s : State) : (triggerAction v s).wfill = 1 := rfl
@[simp] theorem triggerAction_cal (v : Sample) (s : State) : (triggerAction v s).cal = s.cal := rfl
@[simp] theorem triggerAction_rxst (v : Sample) (s : State) : (triggerAction v s).rxst = .syncing := rfl
@[simp] theorem triggerAction_rwidx (v : Sample) (s : State) : (triggerAction v s).rwidx = 0 := rfl
@[simp] theorem triggerAction_fb (v : Sample) (s : State) : (triggerAction v s).fb = s.fb := rfl
@[simp] theorem triggerAction_rcvd (v : Sample) (s : State) : (triggerAction v s).rcvd = s.rcvd := rfl
@[simp] theorem triggerAction_thr (v : Sample) (s : State) : (triggerAction v s).thr = s.thr := rfl
@[simp] theorem triggerAction_vtrig (v : Sample) (s : State) : (triggerAction v s).vtrig = BitVec.ofNat 16 (sampleAbs v) := rfl
@[simp] theorem triggerAction_sigrej (v : Sample) (s : State) : (triggerAction v s).sigrej = s.sigrej := rfl
@[simp] theorem triggerAction_tfb (v : Sample) (s : State) : (triggerAction v s).tfb = s.tfb := rfl
@[simp] theorem triggerAction_tnw (v : Sample) (s : State) : (triggerAction v s).tnw = s.tnw := rfl
@[simp] theorem triggerAction_tidx (v : Sample) (s : State) : (triggerAction v s).tidx = s.tidx := rfl
@[simp] theorem triggerAction_build (v : Sample) (s : State) : (triggerAction v s).build = s.build := rfl
@[simp] theorem triggerAction_schedule (v : Sample) (s : State) : (triggerAction v s).schedule = s.schedule := rfl
@[simp] theorem triggerAction_replies (v : Sample) (s : State) : (triggerAction v s).replies = s.replies := rfl
@[simp] theorem triggerAction_faultLog (v : Sample) (s : State) : (triggerAction v s).faultLog = s.faultLog := rfl

/-! ### synchronized (R508) -/

@[simp] theorem synchronized_nfSyncEn (w : Window) (s : State) : (synchronized w s).nfSyncEn = s.nfSyncEn := rfl
@[simp] theorem synchronized_nfDecEn (w : Window) (s : State) : (synchronized w s).nfDecEn = s.nfDecEn := rfl
@[simp] theorem synchronized_adaptEn (w : Window) (s : State) : (synchronized w s).adaptEn = s.adaptEn := rfl
@[simp] theorem synchronized_busy (w : Window) (s : State) : (synchronized w s).busy = s.busy := rfl
@[simp] theorem synchronized_operational (w : Window) (s : State) : (synchronized w s).operational = s.operational := rfl
@[simp] theorem synchronized_overlap (w : Window) (s : State) : (synchronized w s).overlap = s.overlap := rfl
@[simp] theorem synchronized_curop (w : Window) (s : State) : (synchronized w s).curop = s.curop := rfl
@[simp] theorem synchronized_rcode (w : Window) (s : State) : (synchronized w s).rcode = s.rcode := rfl
@[simp] theorem synchronized_rsize (w : Window) (s : State) : (synchronized w s).rsize = s.rsize := rfl
@[simp] theorem synchronized_rxs (w : Window) (s : State) : (synchronized w s).rxs = s.rxs := rfl
@[simp] theorem synchronized_txs (w : Window) (s : State) : (synchronized w s).txs = s.txs := rfl
@[simp] theorem synchronized_txbuf (w : Window) (s : State) : (synchronized w s).txbuf = s.txbuf := rfl
@[simp] theorem synchronized_wbuf (w : Window) (s : State) : (synchronized w s).wbuf = s.wbuf := rfl
@[simp] theorem synchronized_wfill (w : Window) (s : State) : (synchronized w s).wfill = s.wfill := rfl
@[simp] theorem synchronized_cal (w : Window) (s : State) : (synchronized w s).cal = carrierPowers s.build w := rfl
@[simp] theorem synchronized_rxst (w : Window) (s : State) : (synchronized w s).rxst = .header := rfl
@[simp] theorem synchronized_rwidx (w : Window) (s : State) : (synchronized w s).rwidx = 0 := rfl
@[simp] theorem synchronized_fb (w : Window) (s : State) : (synchronized w s).fb = Memory.ofBytes (List.replicate s.build.F 0xFF) := rfl
@[simp] theorem synchronized_rcvd (w : Window) (s : State) : (synchronized w s).rcvd = s.build.F := rfl
@[simp] theorem synchronized_thr (w : Window) (s : State) : (synchronized w s).thr = baseThreshold s.build := rfl
@[simp] theorem synchronized_vtrig (w : Window) (s : State) : (synchronized w s).vtrig = s.vtrig := rfl
@[simp] theorem synchronized_sigrej (w : Window) (s : State) : (synchronized w s).sigrej = s.sigrej := rfl
@[simp] theorem synchronized_tfb (w : Window) (s : State) : (synchronized w s).tfb = s.tfb := rfl
@[simp] theorem synchronized_tnw (w : Window) (s : State) : (synchronized w s).tnw = s.tnw := rfl
@[simp] theorem synchronized_tidx (w : Window) (s : State) : (synchronized w s).tidx = s.tidx := rfl
@[simp] theorem synchronized_build (w : Window) (s : State) : (synchronized w s).build = s.build := rfl
@[simp] theorem synchronized_schedule (w : Window) (s : State) : (synchronized w s).schedule = s.schedule := rfl
@[simp] theorem synchronized_replies (w : Window) (s : State) : (synchronized w s).replies = s.replies := rfl
@[simp] theorem synchronized_faultLog (w : Window) (s : State) : (synchronized w s).faultLog = s.faultLog := rfl

/-! ### rejectSignature (R509) -/

@[simp] theorem rejectSignature_nfSyncEn (s : State) : (rejectSignature s).nfSyncEn = s.nfSyncEn := rfl
@[simp] theorem rejectSignature_nfDecEn (s : State) : (rejectSignature s).nfDecEn = s.nfDecEn := rfl
@[simp] theorem rejectSignature_adaptEn (s : State) : (rejectSignature s).adaptEn = s.adaptEn := rfl
@[simp] theorem rejectSignature_busy (s : State) : (rejectSignature s).busy = s.busy := rfl
@[simp] theorem rejectSignature_operational (s : State) : (rejectSignature s).operational = s.operational := rfl
@[simp] theorem rejectSignature_overlap (s : State) : (rejectSignature s).overlap = s.overlap := rfl
@[simp] theorem rejectSignature_curop (s : State) : (rejectSignature s).curop = s.curop := rfl
@[simp] theorem rejectSignature_rcode (s : State) : (rejectSignature s).rcode = s.rcode := rfl
@[simp] theorem rejectSignature_rsize (s : State) : (rejectSignature s).rsize = s.rsize := rfl
@[simp] theorem rejectSignature_rxs (s : State) : (rejectSignature s).rxs = s.rxs := rfl
@[simp] theorem rejectSignature_txs (s : State) : (rejectSignature s).txs = s.txs := rfl
@[simp] theorem rejectSignature_txbuf (s : State) : (rejectSignature s).txbuf = s.txbuf := rfl
@[simp] theorem rejectSignature_wbuf (s : State) : (rejectSignature s).wbuf = s.wbuf := rfl
@[simp] theorem rejectSignature_wfill (s : State) : (rejectSignature s).wfill = 0 := rfl
@[simp] theorem rejectSignature_cal (s : State) : (rejectSignature s).cal = s.cal := rfl
@[simp] theorem rejectSignature_rxst (s : State) : (rejectSignature s).rxst = .scanning := rfl
@[simp] theorem rejectSignature_rwidx (s : State) : (rejectSignature s).rwidx = 0 := rfl
@[simp] theorem rejectSignature_fb (s : State) : (rejectSignature s).fb = s.fb := rfl
@[simp] theorem rejectSignature_rcvd (s : State) : (rejectSignature s).rcvd = s.rcvd := rfl
@[simp] theorem rejectSignature_thr (s : State) : (rejectSignature s).thr = if s.adaptEn then s.vtrig.setWidth 17 <<< 1 else s.thr := rfl
@[simp] theorem rejectSignature_vtrig (s : State) : (rejectSignature s).vtrig = s.vtrig := rfl
@[simp] theorem rejectSignature_sigrej (s : State) : (rejectSignature s).sigrej = s.sigrej + 1 := rfl
@[simp] theorem rejectSignature_tfb (s : State) : (rejectSignature s).tfb = s.tfb := rfl
@[simp] theorem rejectSignature_tnw (s : State) : (rejectSignature s).tnw = s.tnw := rfl
@[simp] theorem rejectSignature_tidx (s : State) : (rejectSignature s).tidx = s.tidx := rfl
@[simp] theorem rejectSignature_build (s : State) : (rejectSignature s).build = s.build := rfl
@[simp] theorem rejectSignature_schedule (s : State) : (rejectSignature s).schedule = s.schedule := rfl
@[simp] theorem rejectSignature_replies (s : State) : (rejectSignature s).replies = s.replies := rfl
@[simp] theorem rejectSignature_faultLog (s : State) : (rejectSignature s).faultLog = s.faultLog := rfl

/-! ### completeMultibyte (R665) -/

@[simp] theorem completeMultibyte_nfSyncEn (s : State) : (completeMultibyte s).nfSyncEn = s.nfSyncEn := rfl
@[simp] theorem completeMultibyte_nfDecEn (s : State) : (completeMultibyte s).nfDecEn = s.nfDecEn := rfl
@[simp] theorem completeMultibyte_adaptEn (s : State) : (completeMultibyte s).adaptEn = s.adaptEn := rfl
@[simp] theorem completeMultibyte_busy (s : State) : (completeMultibyte s).busy = s.busy := rfl
@[simp] theorem completeMultibyte_operational (s : State) : (completeMultibyte s).operational = s.operational := rfl
@[simp] theorem completeMultibyte_overlap (s : State) : (completeMultibyte s).overlap = s.overlap := rfl
@[simp] theorem completeMultibyte_curop (s : State) : (completeMultibyte s).curop = s.curop := rfl
@[simp] theorem completeMultibyte_rcode (s : State) : (completeMultibyte s).rcode = s.rcode := rfl
@[simp] theorem completeMultibyte_rsize (s : State) : (completeMultibyte s).rsize = s.rsize := rfl
@[simp] theorem completeMultibyte_rxs (s : State) : (completeMultibyte s).rxs = s.rxs := rfl
@[simp] theorem completeMultibyte_txs (s : State) : (completeMultibyte s).txs = s.txs := rfl
@[simp] theorem completeMultibyte_txbuf (s : State) : (completeMultibyte s).txbuf = s.txbuf := rfl
@[simp] theorem completeMultibyte_wbuf (s : State) : (completeMultibyte s).wbuf = s.wbuf := rfl
@[simp] theorem completeMultibyte_wfill (s : State) : (completeMultibyte s).wfill = s.wfill := rfl
@[simp] theorem completeMultibyte_cal (s : State) : (completeMultibyte s).cal = s.cal := rfl
@[simp] theorem completeMultibyte_rxst (s : State) : (completeMultibyte s).rxst = if s.build.headerBytes + (receivedSize s).toNat ≤ s.rcvd + s.build.F then .validating else .payload := rfl
@[simp] theorem completeMultibyte_rwidx (s : State) : (completeMultibyte s).rwidx = 0 := rfl
@[simp] theorem completeMultibyte_fb (s : State) : (completeMultibyte s).fb = s.fb := rfl
@[simp] theorem completeMultibyte_rcvd (s : State) : (completeMultibyte s).rcvd = s.rcvd + s.build.F := rfl
@[simp] theorem completeMultibyte_thr (s : State) : (completeMultibyte s).thr = s.thr := rfl
@[simp] theorem completeMultibyte_vtrig (s : State) : (completeMultibyte s).vtrig = s.vtrig := rfl
@[simp] theorem completeMultibyte_sigrej (s : State) : (completeMultibyte s).sigrej = s.sigrej := rfl
@[simp] theorem completeMultibyte_tfb (s : State) : (completeMultibyte s).tfb = s.tfb := rfl
@[simp] theorem completeMultibyte_tnw (s : State) : (completeMultibyte s).tnw = s.tnw := rfl
@[simp] theorem completeMultibyte_tidx (s : State) : (completeMultibyte s).tidx = s.tidx := rfl
@[simp] theorem completeMultibyte_build (s : State) : (completeMultibyte s).build = s.build := rfl
@[simp] theorem completeMultibyte_schedule (s : State) : (completeMultibyte s).schedule = s.schedule := rfl
@[simp] theorem completeMultibyte_replies (s : State) : (completeMultibyte s).replies = s.replies := rfl
@[simp] theorem completeMultibyte_faultLog (s : State) : (completeMultibyte s).faultLog = s.faultLog := rfl

/-! ### resetEvent (R801) -/

@[simp] theorem resetEvent_nfSyncEn (audioOk : Bool) (s : State) : (resetEvent audioOk s).nfSyncEn = (State.start s.build audioOk).nfSyncEn := rfl
@[simp] theorem resetEvent_nfDecEn (audioOk : Bool) (s : State) : (resetEvent audioOk s).nfDecEn = (State.start s.build audioOk).nfDecEn := rfl
@[simp] theorem resetEvent_adaptEn (audioOk : Bool) (s : State) : (resetEvent audioOk s).adaptEn = (State.start s.build audioOk).adaptEn := rfl
@[simp] theorem resetEvent_busy (audioOk : Bool) (s : State) : (resetEvent audioOk s).busy = (State.start s.build audioOk).busy := rfl
@[simp] theorem resetEvent_operational (audioOk : Bool) (s : State) : (resetEvent audioOk s).operational = (State.start s.build audioOk).operational := rfl
@[simp] theorem resetEvent_overlap (audioOk : Bool) (s : State) : (resetEvent audioOk s).overlap = (State.start s.build audioOk).overlap := rfl
@[simp] theorem resetEvent_curop (audioOk : Bool) (s : State) : (resetEvent audioOk s).curop = (State.start s.build audioOk).curop := rfl
@[simp] theorem resetEvent_rcode (audioOk : Bool) (s : State) : (resetEvent audioOk s).rcode = (State.start s.build audioOk).rcode := rfl
@[simp] theorem resetEvent_rsize (audioOk : Bool) (s : State) : (resetEvent audioOk s).rsize = (State.start s.build audioOk).rsize := rfl
@[simp] theorem resetEvent_rxs (audioOk : Bool) (s : State) : (resetEvent audioOk s).rxs = (State.start s.build audioOk).rxs := rfl
@[simp] theorem resetEvent_txs (audioOk : Bool) (s : State) : (resetEvent audioOk s).txs = (State.start s.build audioOk).txs := rfl
@[simp] theorem resetEvent_txbuf (audioOk : Bool) (s : State) : (resetEvent audioOk s).txbuf = (State.start s.build audioOk).txbuf := rfl
@[simp] theorem resetEvent_wbuf (audioOk : Bool) (s : State) : (resetEvent audioOk s).wbuf = (State.start s.build audioOk).wbuf := rfl
@[simp] theorem resetEvent_wfill (audioOk : Bool) (s : State) : (resetEvent audioOk s).wfill = (State.start s.build audioOk).wfill := rfl
@[simp] theorem resetEvent_cal (audioOk : Bool) (s : State) : (resetEvent audioOk s).cal = (State.start s.build audioOk).cal := rfl
@[simp] theorem resetEvent_rxst (audioOk : Bool) (s : State) : (resetEvent audioOk s).rxst = (State.start s.build audioOk).rxst := rfl
@[simp] theorem resetEvent_rwidx (audioOk : Bool) (s : State) : (resetEvent audioOk s).rwidx = (State.start s.build audioOk).rwidx := rfl
@[simp] theorem resetEvent_fb (audioOk : Bool) (s : State) : (resetEvent audioOk s).fb = (State.start s.build audioOk).fb := rfl
@[simp] theorem resetEvent_rcvd (audioOk : Bool) (s : State) : (resetEvent audioOk s).rcvd = (State.start s.build audioOk).rcvd := rfl
@[simp] theorem resetEvent_thr (audioOk : Bool) (s : State) : (resetEvent audioOk s).thr = (State.start s.build audioOk).thr := rfl
@[simp] theorem resetEvent_vtrig (audioOk : Bool) (s : State) : (resetEvent audioOk s).vtrig = (State.start s.build audioOk).vtrig := rfl
@[simp] theorem resetEvent_sigrej (audioOk : Bool) (s : State) : (resetEvent audioOk s).sigrej = (State.start s.build audioOk).sigrej := rfl
@[simp] theorem resetEvent_tfb (audioOk : Bool) (s : State) : (resetEvent audioOk s).tfb = (State.start s.build audioOk).tfb := rfl
@[simp] theorem resetEvent_tnw (audioOk : Bool) (s : State) : (resetEvent audioOk s).tnw = (State.start s.build audioOk).tnw := rfl
@[simp] theorem resetEvent_tidx (audioOk : Bool) (s : State) : (resetEvent audioOk s).tidx = (State.start s.build audioOk).tidx := rfl
@[simp] theorem resetEvent_build (audioOk : Bool) (s : State) : (resetEvent audioOk s).build = s.build := rfl
@[simp] theorem resetEvent_schedule (audioOk : Bool) (s : State) : (resetEvent audioOk s).schedule = s.schedule := rfl
@[simp] theorem resetEvent_replies (audioOk : Bool) (s : State) : (resetEvent audioOk s).replies = s.replies := rfl
@[simp] theorem resetEvent_faultLog (audioOk : Bool) (s : State) : (resetEvent audioOk s).faultLog = s.faultLog := rfl

end Sys2Proof.Machine
end

