-- ==== Sys2Proof/Laws/Stream.lean ====
section
/-! SUPPORT. What the stream operations can do: a read answers exactly where the bytes are there, storing into the
circular store, and the stream invariant every operation keeps (41_sample_stream.md R402). -/

namespace Sys2Proof.Machine

@[simp] theorem Stream.length_oldest (cap n : Nat) (s : Stream) : (s.oldest cap n).length = n := by
  simp [Stream.oldest]

@[simp] theorem Stream.length_contents (cap : Nat) (s : Stream) : (s.contents cap).length = s.cnt := by
  simp [Stream.contents]

/-- The oldest `n` bytes of a stream that holds them are the first `n` of its contents. -/
theorem Stream.oldest_eq_take {cap n : Nat} {s : Stream} (h : n ≤ s.cnt) :
    s.oldest cap n = (s.contents cap).take n := by
  rw [Stream.contents, Stream.oldest, Stream.oldest, ← List.map_take, List.take_range, Nat.min_eq_left h]

/-- StreamRead where the bytes are there (41_sample_stream.md R412). -/
theorem Stream.read_of_le {cap n : Nat} {s : Stream} (h : n ≤ s.cnt) :
    s.read cap n = some (s.oldest cap n, ⟨s.buf, (s.rd + n) % cap, s.cnt - n⟩) := by
  rw [Stream.read, if_pos h]

/-- StreamRead where they are not (41_sample_stream.md R412). -/
theorem Stream.read_of_lt {cap n : Nat} {s : Stream} (h : s.cnt < n) : s.read cap n = none := by
  rw [Stream.read, if_neg (by omega)]

/-- A byte outside the positions stored to is as before. -/
theorem read_storeCircular_other {cap at_ a : Nat} {vs : List Byte} {m : Memory} (h : m.wf = true)
    (hne : ∀ i, i < vs.length → a ≠ (at_ + i) % cap) : (storeCircular cap at_ vs m).read a = m.read a := by
  induction vs generalizing at_ m with
  | nil => rfl
  | cons v vs ih =>
    rw [storeCircular, ih (Memory.wf_write h _ v), Memory.read_write h, if_neg]
    · exact hne 0 (by simp)
    · intro i hi
      have := hne (i + 1) (by simpa using hi)
      rwa [show at_ + 1 + i = at_ + (i + 1) by omega]

/-- Of at most `cap` bytes stored, byte `i` is at position `at_ + i`, around the end of the store. -/
theorem read_storeCircular {cap at_ i : Nat} {vs : List Byte} {m : Memory} (h : m.wf = true)
    (hlen : vs.length ≤ cap) (hi : i < vs.length) :
    (storeCircular cap at_ vs m).read ((at_ + i) % cap) = vs.getD i 0 := by
  induction vs generalizing at_ i m with
  | nil => simp at hi
  | cons v vs ih =>
    simp only [List.length_cons] at hlen hi
    cases i with
    | zero =>
      rw [storeCircular, read_storeCircular_other (Memory.wf_write h _ v), Memory.read_write h]
      · simp
      · intro j hj heq
        have h1 : (at_ + (1 + j)) % cap = (at_ + 0) % cap := by rw [← Nat.add_assoc]; exact heq.symm
        have h2 := Nat.sub_mod_eq_zero_of_mod_eq h1
        rw [Nat.add_zero, Nat.add_sub_cancel_left, Nat.mod_eq_of_lt (by omega)] at h2
        omega
    | succ j =>
      rw [storeCircular, show at_ + (j + 1) = at_ + 1 + j by omega]
      exact ih (Memory.wf_write h _ v) (by omega) (by omega)

/-- An overflow discards exactly the overflow amount where both lengths are whole Samples (41_sample_stream.md R411). -/
theorem overflowDiscard_eq {cap cnt length : Nat} (hcap : cap % 2 = 0) (hcnt : cnt % 2 = 0) (hlen : length % 2 = 0)
    (hle : cnt ≤ cap) : overflowDiscard cap cnt length = length - (cap - cnt) := by
  unfold overflowDiscard
  simp only [Config.sampleBytes]
  split <;> omega

/-- StreamWrite of whole Samples keeps the stream invariant. -/
theorem StreamInv.write {cap : Nat} {s : Stream} {data : List Byte} (h : StreamInv cap s) (hcap : cap % 2 = 0)
    (hdata : data.length % 2 = 0) : StreamInv cap (s.write cap data) := by
  obtain ⟨hle, heven, hrd, hrde, hwf, hin⟩ := h
  simp only [Config.sampleBytes] at heven hrde
  have hpos : 0 < cap := by omega
  have hkept : (data.drop (data.length - cap)).length = min data.length cap := by
    rw [List.length_drop]; omega
  have hkeven : min data.length cap % 2 = 0 := by omega
  have hd := overflowDiscard_eq hcap heven hkeven hle
  have hmod : ∀ x, x % 2 = 0 → x % cap % 2 = 0 := fun x hx => by
    rw [Nat.mod_mod_of_dvd x (by omega : 2 ∣ cap)]; exact hx
  refine ⟨?_, ?_, Nat.mod_lt _ hpos, ?_, wf_storeCircular hwf _ _ _, within_storeCircular hin hpos _ _⟩
  · simp only [Stream.write, hkept, hd]; omega
  · simp only [Stream.write, hkept, hd, Config.sampleBytes]; omega
  · simp only [Stream.write, hkept, hd, Config.sampleBytes]; exact hmod _ (by omega)

/-- Taking whole Samples off the front keeps the stream invariant. -/
theorem StreamInv.advance {cap n : Nat} {s : Stream} (h : StreamInv cap s) (hcap : cap % 2 = 0) (hn : n % 2 = 0)
    (hle : n ≤ s.cnt) : StreamInv cap ⟨s.buf, (s.rd + n) % cap, s.cnt - n⟩ := by
  obtain ⟨hc, heven, hrd, hrde, hwf, hin⟩ := h
  simp only [Config.sampleBytes] at heven hrde
  refine ⟨by simp only; omega, by simp only [Config.sampleBytes]; omega, Nat.mod_lt _ (by omega), ?_, hwf, hin⟩
  simp only [Config.sampleBytes]
  rw [Nat.mod_mod_of_dvd _ (by omega : 2 ∣ cap)]
  omega

end Sys2Proof.Machine
end

