-- ==== Sys2Proof/Laws/Steps.lean ====
section
/-! SUPPORT. What each shared step operation can do, said once: the acceptance of a command, the reads of RXS, and one
turn of the machine. -/

namespace Sys2Proof.Machine

/-- The acceptance of a legal command has exactly three outcomes (60_exceptions.md R705). -/
theorem acceptCommand_cases (issue : State → State) (s : State) :
    (s.busy = true ∧ acceptCommand issue s = raiseOverlap s)
      ∨ (s.busy = false ∧ s.operational = false ∧ acceptCommand issue s = refuseCommand .notOperational s)
      ∨ (s.busy = false ∧ s.operational = true ∧ acceptCommand issue s = issue s) := by
  unfold acceptCommand
  cases hb : s.busy <;> cases ho : s.operational <;> simp

/-- Too few bytes in RXS: NO_DATA_YET (46_receiver.md R662). -/
theorem withBytes_short {need : Nat} {s : State} (go : List Byte → State → State) (h : s.rxs.cnt < need) :
    withBytes need s go = .next (finish .noDataYet 0 s) := by
  rw [withBytes, if_pos h]

/-- Enough bytes in RXS: exactly `need` of them are taken (46_receiver.md R654). -/
theorem withBytes_enough {need : Nat} {s : State} (go : List Byte → State → State) (h : need ≤ s.rxs.cnt) :
    withBytes need s go = .next (go (s.rxs.oldest s.build.rxsBytes need)
      { s with rxs := ⟨s.rxs.buf, (s.rxs.rd + need) % s.build.rxsBytes, s.rxs.cnt - need⟩ }) := by
  rw [withBytes, if_neg (by omega), Stream.read_of_le h]

/-- A micro-step that reads RXS always answers a next state. -/
theorem withBytes_next (need : Nat) (s : State) (go : List Byte → State → State) :
    ∃ t, withBytes need s go = .next t := by
  rcases Nat.lt_or_ge s.rxs.cnt need with h | h
  · exact ⟨_, withBytes_short go h⟩
  · exact ⟨_, withBytes_enough go h⟩

/-- The Window that AcquireWindow reads (46_receiver.md R654). -/
def nextWindow (s : State) : Window :=
  s.wbuf.take s.wfill ++ windowOfBytes
    (s.rxs.oldest s.build.rxsBytes ((s.build.N - s.wfill) * Config.sampleBytes))

/-- The state once that Window has been read: RXS without its bytes, WBUF the Window, WFILL 0. -/
def afterWindow (s : State) : State :=
  let need := (s.build.N - s.wfill) * Config.sampleBytes
  { s with
    rxs := ⟨s.rxs.buf, (s.rxs.rd + need) % s.build.rxsBytes, s.rxs.cnt - need⟩
    wbuf := nextWindow s
    wfill := 0 }

/-- AcquireWindow where RXS holds the rest of the Window (46_receiver.md R654). -/
theorem withWindow_enough {s : State} (go : Window → State → State)
    (h : (s.build.N - s.wfill) * Config.sampleBytes ≤ s.rxs.cnt) :
    withWindow s go = .next (go (nextWindow s) (afterWindow s)) := by
  rw [withWindow, withBytes_enough _ h]
  rfl

/-- AcquireWindow where it does not (46_receiver.md R654, R662). -/
theorem withWindow_short {s : State} (go : Window → State → State)
    (h : s.rxs.cnt < (s.build.N - s.wfill) * Config.sampleBytes) :
    withWindow s go = .next (finish .noDataYet 0 s) := withBytes_short _ h

/-- `n` Samples in `2n` bytes. -/
theorem length_windowOfBytes (n : Nat) (bytes : List Byte) (h : bytes.length = 2 * n) :
    (windowOfBytes bytes).length = n := by
  induction n generalizing bytes with
  | zero =>
    obtain rfl := List.eq_nil_of_length_eq_zero (by omega : bytes.length = 0)
    rfl
  | succ n ih =>
    match bytes, h with
    | low :: high :: rest, h =>
      simp only [List.length_cons] at h
      simp only [windowOfBytes, List.length_cons]
      rw [ih rest (by omega)]

theorem append_halves (v : BitVec 16) : (v.extractLsb' 8 8 ++ v.extractLsb' 0 8 : BitVec (8 + 8)) = v := by
  apply BitVec.eq_of_getLsbD_eq
  intro i hi
  rw [BitVec.getLsbD_append, BitVec.getLsbD_extractLsb', BitVec.getLsbD_extractLsb']
  by_cases h : i < 8
  · simp [h]
  · simp [h, show i - 8 < 8 by omega, show 8 + (i - 8) = i by omega]

/-- A Sample's bytes read back as the Sample (00_scope.md R17). -/
theorem sampleOfBytes_bytesOfSample (v : Sample) : sampleOfBytes (v.extractLsb' 0 8) (v.extractLsb' 8 8) = v :=
  append_halves v

/-- A Window's bytes read back as the Window (30_encoding.md R302). -/
theorem windowOfBytes_bytesOfWindow (w : Window) : windowOfBytes (bytesOfWindow w) = w := by
  induction w with
  | nil => rfl
  | cons v w ih =>
    rw [show bytesOfWindow (v :: w) = v.extractLsb' 0 8 :: v.extractLsb' 8 8 :: bytesOfWindow w from rfl,
      windowOfBytes, ih, sampleOfBytes_bytesOfSample]

@[simp] theorem length_bytesOfWindow (w : Window) : (bytesOfWindow w).length = 2 * w.length := by
  induction w with
  | nil => rfl
  | cons v w ih =>
    rw [show bytesOfWindow (v :: w) = v.extractLsb' 0 8 :: v.extractLsb' 8 8 :: bytesOfWindow w from rfl]
    simp only [List.length_cons, ih]; omega

@[simp] theorem length_encodeWindow (b : Build) (bits : Multibit) : (encodeWindow b bits).length = b.N := by
  simp [encodeWindow]

@[simp] theorem length_silentWindow (b : Build) : (silentWindow b).length = b.N := by simp [silentWindow]

@[simp] theorem length_frameWindow (b : Build) (m : Memory) (n i : Nat) : (frameWindow b m n i).length = b.N := by
  unfold frameWindow; split <;> simp

@[simp] theorem length_carrierPowers (b : Build) (w : Window) : (carrierPowers b w).length = b.F := by
  simp [carrierPowers]

@[simp] theorem length_decodeMultibit (b : Build) (w : Window) (cal : List Nat) :
    (decodeMultibit b w cal).length = b.F := by simp [decodeMultibit]

@[simp] theorem length_windowBits (b : Build) (m : Memory) (i : Nat) : (windowBits b m i).length = b.F := by
  simp [windowBits]

@[simp] theorem length_buildFrame (b : Build) (p : List Byte) (size : Nat) :
    (buildFrame b p size).length = b.multibytes size * b.F := by simp [buildFrame]

/-- A step of a legal build is one turn. -/
theorem step_of_legal {s : State} (h : s.build.legal = true) : step s = takeTurn s := by rw [step, if_pos h]

/-- A step of an illegal build is refused (00_scope.md R12). -/
theorem step_of_illegal {s : State} (h : s.build.legal = false) : step s = .refused .illegalBuild := by
  rw [step, h]; rfl

/-- One turn is the next scheduled turn, or the ENGINE's where none is scheduled. -/
theorem takeTurn_cases (s : State) :
    (s.schedule = [] ∧ takeTurn s = engineStep s)
      ∨ ∃ a rest, s.schedule = a :: rest ∧ takeTurn s = perform a { s with schedule := rest } := by
  unfold takeTurn
  cases h : s.schedule with
  | nil => exact .inl ⟨rfl, rfl⟩
  | cons a rest => exact .inr ⟨a, rest, rfl, rfl⟩

/-- The ENGINE's step: nothing, EmitWindow, or the receiver's micro-step. -/
theorem engineStep_cases (s : State) :
    ((s.busy = false ∨ s.curop = .none) ∧ engineStep s = .next s)
      ∨ (s.busy = true ∧ s.curop = .transmit ∧ engineStep s = .next (emitWindow s))
      ∨ (s.busy = true ∧ s.curop = .receive ∧ engineStep s = receiveStep s) := by
  unfold engineStep
  cases s.busy <;> cases s.curop <;> simp

/-- AUDIO_IN keeps the build. -/
@[simp] theorem build_audioIn (data : List Byte) (s : State) : (audioIn data s).build = s.build := by
  unfold audioIn logFault; (repeat' split) <;> rfl

/-- AUDIO_OUT always answers a next state (41_sample_stream.md R415). -/
theorem audioOut_next (length : Nat) (s : State) : ∃ t, audioOut length s = .next t ∧ t.build = s.build := by
  unfold audioOut
  split
  · split
    · rw [Stream.read_of_le (Nat.min_le_right _ _)]; exact ⟨_, rfl, rfl⟩
    · exact ⟨_, rfl, rfl⟩
  · exact ⟨_, rfl, rfl⟩

/-- EmitWindow: a hold, a Window with more to come, or the gap Window and TX_DONE (45_transmitter.md R603). -/
theorem emitWindow_cases (s : State) :
    ((s.tnw < s.tidx ∨ s.txs.free s.build.txsBytes < s.build.windowBytes) ∧ emitWindow s = s)
      ∨ (s.tidx < s.tnw ∧ s.build.windowBytes ≤ s.txs.free s.build.txsBytes
          ∧ emitWindow s = { s with
              txs := s.txs.write s.build.txsBytes (bytesOfWindow (frameWindow s.build s.tfb s.tnw s.tidx))
              tidx := s.tidx + 1 })
      ∨ (s.tidx = s.tnw ∧ s.build.windowBytes ≤ s.txs.free s.build.txsBytes
          ∧ emitWindow s = finish .txDone 0 { s with
              txs := s.txs.write s.build.txsBytes (bytesOfWindow (frameWindow s.build s.tfb s.tnw s.tidx))
              tidx := s.tidx + 1 }) := by
  unfold emitWindow
  split
  · rename_i h; exact .inl ⟨h, rfl⟩
  · rename_i h
    rcases Nat.lt_trichotomy s.tidx s.tnw with h1 | h1 | h1
    · exact .inr (.inl ⟨h1, by omega, by simp only; rw [if_neg (by omega)]⟩)
    · exact .inr (.inr ⟨h1, by omega, by simp only; rw [if_pos (by omega)]⟩)
    · omega

/-- A micro-step that reads RXS answers a next state of the same build. -/
theorem withBytes_next_build {need : Nat} {s : State} {go : List Byte → State → State}
    (h : ∀ bytes t, (go bytes t).build = t.build) : ∃ t, withBytes need s go = .next t ∧ t.build = s.build := by
  rcases Nat.lt_or_ge s.rxs.cnt need with hlt | hge
  · exact ⟨_, withBytes_short go hlt, rfl⟩
  · exact ⟨_, withBytes_enough go hge, by rw [h]⟩

/-- The ENGINE always answers a next state (60_exceptions.md R723). -/
theorem engineStep_next (s : State) : ∃ t, engineStep s = .next t ∧ t.build = s.build := by
  rcases engineStep_cases s with ⟨-, h⟩ | ⟨-, -, h⟩ | ⟨-, -, h⟩
  · exact ⟨s, h, rfl⟩
  · refine ⟨_, h, ?_⟩
    rcases emitWindow_cases s with ⟨-, h⟩ | ⟨-, -, h⟩ | ⟨-, -, h⟩ <;> simp [h, finish]
  · rw [h]
    have hdec : ∃ t, decodeStep s = .next t ∧ t.build = s.build := by
      unfold decodeStep withWindow
      refine withBytes_next_build fun bytes t => ?_
      simp only [decodeWindow, abortFrame, completeMultibyte, finish]
      (repeat' split) <;> rfl
    unfold receiveStep
    cases s.rxst with
    | scanning =>
      simp only [scanStep]
      refine withBytes_next_build fun bytes t => ?_
      simp only [scanSample, triggerAction]
      split <;> rfl
    | syncing =>
      simp only [syncStep, withWindow]
      refine withBytes_next_build fun bytes t => ?_
      simp only [syncWindow, synchronized, rejectSignature]
      (repeat' split) <;> rfl
    | header => exact hdec
    | payload => exact hdec
    | validating =>
      refine ⟨_, rfl, ?_⟩
      simp only [validateStep, finish]
      split <;> rfl

end Sys2Proof.Machine
end

