-- ==== Sys2Proof/Tests/Slice0.lean ====
section
/-! SUPPORT. The tests: ill-formed terms refused, words decoded, the spec's own vectors (95_test_vectors.md), and for
every statement with hypotheses a state and operands that meet them. -/

set_option Elab.async false

namespace Sys2Proof.Tests

open Sys2Proof Sys2Proof.Machine

/-! ### Helpers -/

/-- The next state of an answer, if it is one. -/
def nextOf : Result → Option State
  | .next t => some t
  | .fault _ => none
  | .refused _ => none

/-- An answer whose next state passes a check is a next state that passes it. -/
theorem reaches {r : Result} {check : State → Bool} (h : (nextOf r).any check = true) :
    ∃ t, r = .next t ∧ check t = true := by
  cases r with
  | next t => exact ⟨t, rfl, by simpa [nextOf] using h⟩
  | fault f => simp [nextOf] at h
  | refused f => simp [nextOf] at h

/-- An answer that is the refusal of an illegal build. -/
def isIllegalBuild : Result → Bool
  | .refused .illegalBuild => true
  | _ => false

/-- A small legal build: N = 8, one carrier at bin 2, its ROM from 42_bit_codec.md R452. -/
def tiny : Build := { referenceBuild with
  N := 8
  cosq := [32767, 23170, 0, -23170, -32767, -23170, 0, 23170]
  sinq := [0, 23170, 32767, 23170, 0, -23170, -32767, -23170]
  rxsBytes := 1024
  txsBytes := 1024 }

/-- The small build with a digest nothing is known of. -/
def tinyOther : Build := { tiny with digest := .other 0 }

/-- Build F3 of 95_test_vectors.md. -/
def buildF3 : Build := { referenceBuild with F := 3, freq := [10, 20, 30], encAmp := 5461 }

/-- The small build after reset. -/
def idle : State := State.start tiny true

/-- The small build with no audio device. -/
def noDevice : State := State.start tiny false

/-- Its Window of a set bit, Encode([1]). -/
def ones : Window := encodeWindow tiny [true]

/-- A stream that holds `data`, its oldest byte at index 0. -/
def holding (data : List Byte) : Stream := ⟨Memory.ofBytes data, 0, data.length⟩

/-- A stream that holds `n` bytes, the oldest 7 and the others 0. -/
def holdingMany (n : Nat) : Stream := ⟨[(0, 7)], 0, n⟩

/-- RECEIVE in progress with `data` in RXS. -/
def receiving (data : List Byte) : State :=
  { idle with busy := true, curop := .receive, rxs := holding data }

/-- RECEIVE in progress in SYNCING at Window `i`, whose Samples `w` are all in RXS but, for Window 0, its first. -/
def syncingAt (i : BitVec 3) (w : Window) : State :=
  { receiving (bytesOfWindow (w.drop (if i = 0 then 1 else 0))) with
    rxst := .syncing, rwidx := i, wfill := if i = 0 then 1 else 0, wbuf := w.take 1 ++ List.replicate 7 0 }

/-- RECEIVE in progress in HEADER at Window `i`, synchronized, with `w` in RXS. -/
def headerAt (i : BitVec 3) (w : Window) : State :=
  { synchronized ones (receiving (bytesOfWindow w)) with rwidx := i }

/-- RECEIVE in progress in VALIDATING with the frame buffer `bytes`. -/
def validatingWith (bytes : List Byte) : State :=
  { receiving [] with rxst := .validating, fb := Memory.ofBytes bytes, rcvd := bytes.length, cal := [1] }

/-- TRANSMIT 0 in progress at Window `i`. -/
def sendingAt (i : Nat) : State := { issueTransmit 0 idle with tidx := i }

/-- Write `v` to the register at `off`. -/
def write (off : Offset) (v : Word) : Action := .busWrite 32 off v

/-- The data of the last BusRead. -/
def lastRead (s : State) : Option Word :=
  match s.replies.getLast? with
  | some (.readData _ w) => some w
  | _ => none

/-- What a read of the register at `off` gives in `s`. -/
def reading (off : Offset) (s : State) : Option Word := lastRead (busRead 32 off s)

/-- 20 Windows' worth of bytes from a scaled spike: one Sample `v` and zeros. -/
def spike (v : Int) : Window := BitVec.ofInt 16 v :: List.replicate 7 0

/-! ### Ill-formed terms are refused -/

theorem test_wf_transmit_256_refused : Instr.wf (.transmit 256) = false ∧ Instr.wf (.transmit 255) = true := by decide

/-- Each check of a build refuses a build that breaks it (00_scope.md R11). -/
theorem test_ill_formed_builds_refused :
    ({ tiny with N := 7 } : Build).legalWindow = false
      ∧ ({ tiny with N := 2 } : Build).legalWindow = false
      ∧ ({ tiny with N := 65538 } : Build).legalWindow = false
      ∧ ({ tiny with sampleRate := 0 } : Build).legalWindow = false
      ∧ ({ tiny with freq := [0] } : Build).legalCarriers = false
      ∧ ({ tiny with freq := [4] } : Build).legalCarriers = false
      ∧ ({ tiny with F := 2, freq := [1, 1] } : Build).legalCarriers = false
      ∧ ({ tiny with F := 0, freq := [] } : Build).legalCarriers = false
      ∧ ({ tiny with F := 2 } : Build).legalCarriers = false
      ∧ ({ tiny with cosq := [] } : Build).legalRom = false
      ∧ ({ tiny with cosq := tiny.cosq.set 1 5 } : Build).legalRom = false
      ∧ ({ tiny with sinq := tiny.sinq.set 3 23169 } : Build).legalRom = false
      ∧ ({ tiny with encAmp := 0 } : Build).legalLevels = false
      ∧ ({ tiny with encAmp := 32768 } : Build).legalLevels = false
      ∧ ({ tiny with triggerLevel := 32768 } : Build).legalLevels = false
      ∧ ({ tiny with sp := 5 } : Build).legalRatios = false
      ∧ ({ tiny with dp := 0 } : Build).legalRatios = false
      ∧ ({ tiny with np := 5 } : Build).legalRatios = false
      ∧ ({ tiny with nq := 65536 } : Build).legalRatios = false
      ∧ ({ tiny with rxsBytes := 1023 } : Build).legalStreams = false
      ∧ ({ tiny with txsBytes := 14 } : Build).legalStreams = false := by decide +kernel

theorem test_legal_builds :
    referenceBuild.legal = true ∧ tiny.legal = true ∧ tinyOther.legal = true ∧ buildF3.legal = true := by
  decide +kernel

/-! ### Decoding (30_encoding.md R320 to R326) -/

/-- OP = 1 in bits 3:0, SIZE = 0xA5 in bits 15:8. -/
theorem test_decode_transmit : decode 0b00000000000000001010010100000001#32 = .ok (.transmit 0xA5) := by decide

/-- OP = 2 in bits 3:0, everything else 0. -/
theorem test_decode_receive : decode 0b00000000000000000000000000000010#32 = .ok .receive := by decide

theorem test_encode_writes_the_fields :
    encode (.transmit 0xA5) = 0x0000A501#32 ∧ encode .receive = 0x00000002#32 := by decide

/-- V-CM-1 to V-CM-6: the words of 95_test_vectors.md section 2.7 that are illegal. -/
theorem test_decode_rejects_by_name :
    [0x00000000#32, 0x00000003#32, 0x00000102#32, 0x00000011#32, 0x00010001#32, 0x0000000F#32].map decode
      = [.error (.reservedOp 0), .error (.reservedOp 3), .error (.receiveWithSize 1), .error .reservedBits,
          .error .reservedBits, .error (.reservedOp 15)] := by decide

theorem test_decodeBytes_is_little_endian :
    decodeBytes [0x01, 0xA5, 0x00, 0x00] = .ok (.transmit 0xA5) ∧ decodeBytes [0x02] = .error .notOneWord := by decide

theorem test_decodeTableWord :
    decodeTableWord 32 0x00000101 = some (.transmit 1) ∧ decodeTableWord 32 2 = some .receive
      ∧ decodeTableWord 32 3 = none := by decide

/-- Listings of 30_encoding.md R326. -/
theorem test_listing :
    listing 0x00000101#32 = "TRANSMIT 1" ∧ listing 0x00000002#32 = "RECEIVE"
      ∧ listing 0x00000102#32 = ".word 0x00000102" := by decide +kernel

/-- No word matches both rows. -/
theorem test_opcode_rows_do_not_overlap :
    opcodeTable.Pairwise fun r q => r.pattern &&& (r.mask &&& q.mask) ≠ q.pattern &&& (r.mask &&& q.mask) := by decide

/-- The next step after withFetchWord runs the word's command (V-CM-7's word, and RECEIVE). -/
theorem test_withFetchWord_runs_the_word :
    (nextOf (step (State.reset.withFetchWord 32 0x0000FF01))).any
        (fun t => t.busy && t.curop == .transmit && t.tnw == 2072) = true
      ∧ (nextOf (step (State.reset.withFetchWord 32 0x00000002))).any
        (fun t => t == { State.reset with busy := true, curop := .receive }) = true := by decide +kernel

/-! ### The spec's vectors (95_test_vectors.md) -/

/-- V-ST-1 to V-ST-4, CAP = 8, the letters a to j being 1 to 10. -/
theorem test_stream_vectors :
    let s1 := (⟨[], 0, 0⟩ : Stream).write 8 [1, 2, 3, 4, 5, 6]
    let s2 := s1.write 8 [7, 8, 9, 10]
    s1.contents 8 = [1, 2, 3, 4, 5, 6] ∧ s1.rd = 0
      ∧ s2.contents 8 = [3, 4, 5, 6, 7, 8, 9, 10] ∧ s2.rd = 2
      ∧ (s2.read 8 2).map (fun r => (r.1, r.2.rd, r.2.contents 8)) = some ([3, 4], 4, [5, 6, 7, 8, 9, 10])
      ∧ ((holding [1, 2, 3, 4]).write 8 [10, 11, 12, 13, 14, 15, 16, 17, 18, 19]).contents 8
        = [12, 13, 14, 15, 16, 17, 18, 19] := by decide +kernel

/-- V-CD-1, V-CD-2: entries of the ROM and of the taper. -/
theorem test_rom_and_taper_vectors :
    [0, 1, 2, 8, 16, 32, 48, 64].map referenceBuild.cosAt = [32767, 32728, 32609, 30273, 23170, 0, -23170, -32767]
      ∧ [0, 1, 2, 8].map referenceBuild.sinAt = [0, 1608, 3212, 12539]
      ∧ [0, 1, 2, 3, 4, 64].map (taper referenceBuild) = [0, 39, 158, 355, 630, 65534] := by decide +kernel

/-- 32767 * cos(2*pi / 6) = 16383.5 is a tie, which rha takes away from 0; so is the cosine of a third of a turn
(42_bit_codec.md R452). -/
theorem test_rom_ties :
    isRomEntry 1 6 16384 = true ∧ isRomEntry 1 6 16383 = false ∧ isRomEntry 1 3 (-16384) = true
      ∧ isRomEntry 1 3 (-16383) = false := by decide +kernel

/-- V-CD-3: Samples of Encode([1]) at the reference build. -/
theorem test_encode_vector :
    [0, 1, 2, 3, 16, 32, 64, 127].map (fun n => ((encodeWindow referenceBuild [true]).getD n 0).toInt)
      = [16383, 16304, 16068, 15678, 0, -16383, 16383, 16304] := by decide +kernel

/-- V-CD-5: powers of Encode([1]) at the reference build. -/
theorem test_power_vector :
    [1, 2, 4, 63].map (power referenceBuild (encodeWindow referenceBuild [true]))
      = [316837785439319735941419057444, 1267347259565770137802989740176, 0, 16753127868050016004] := by decide +kernel

/-- V-CD-8: build F3's powers of Encode([1,0,1]) at its carriers. -/
theorem test_power_vector_F3 :
    carrierPowers buildF3 (encodeWindow buildF3 [true, false, true])
      = [140818623299496895643196377344, 0, 140817140297620364705684852736] := by decide +kernel

/-- V-SY-5, V-SY-6: an impulse at Sample 0 has no power, one at Sample 1 a near-flat spectrum. -/
theorem test_impulse_vectors :
    [1, 2].map (power referenceBuild (5000 :: List.replicate 127 0)) = [0, 0]
      ∧ [1, 2].map (power referenceBuild (3000 :: 5000 :: List.replicate 126 0))
        = [40827733315200000000, 40826066945625000000] := by decide +kernel

/-- V-SY-1, V-SY-2: the trigger is strict, and abs of -32768 is 32768. -/
theorem test_trigger_vectors :
    triggers 2048 2048 = false ∧ triggers 2048 2049 = true ∧ triggers 2048 (-2049) = true
      ∧ sampleAbs (-32768) = 32768 := by decide

/-- V-FR-1, V-FR-2, V-FR-4: Frames at the reference build and at build F3. -/
theorem test_frame_vectors :
    buildFrame referenceBuild [0x41] 1 = [0xFF, 0x01, 0x7F, 0xC5, 0x41]
      ∧ buildFrame referenceBuild [] 0 = [0xFF, 0x00, 0xD4, 0x1D]
      ∧ buildFrame buildF3 [0x48, 0x65, 0x6C, 0x6C, 0x6F] 5
        = [0xFF, 0xFF, 0xFF, 0x05, 0x8B, 0x1A, 0x48, 0x65, 0x6C, 0x6C, 0x6F, 0x00] := by decide +kernel

/-- V-FR-6: the hash of two corruptions of "A". -/
theorem test_digest_vectors : hash16 .md5 [0x40] = 0x8E51#16 ∧ hash16 .md5 [0xC1] = 0x4A19#16 := by decide +kernel

/-- P1, step 2: TRANSMIT 1 of "A". -/
theorem test_transmit_issue_vector :
    (nextOf (exec (.transmit 1) { State.reset with txbuf := [(0, 0x41)] })).any (fun t =>
      t.tfb.readAll 0 6 == [0xFF, 0x01, 0x7F, 0xC5, 0x41, 0x00] && t.tnw == 40 && t.tidx == 0 && t.busy
        && t.curop == .transmit) = true := by decide +kernel

/-- V-TX-4 in small: without WB free bytes the ENGINE holds. -/
theorem test_transmit_hold :
    let s := { sendingAt 0 with txs := holdingMany 1010 }
    (nextOf (engineStep s)).any (· == s) = true := by decide +kernel

/-- V-RX-3: RECEIVE on an empty stream is NO_DATA_YET. -/
theorem test_receive_empty_vector :
    (nextOf (engineStep { State.reset with busy := true, curop := .receive })).any
      (· == { State.reset with rcode := .noDataYet }) = true := by decide +kernel

/-- V-CM-7, V-CM-8, V-CM-9, V-CM-14: the order of the checks of a CMD write. -/
theorem test_command_acceptance_vectors :
    (nextOf (busWrite 32 0x008 0x00000003 (receiving []))).any (· == { receiving [] with overlap := true }) = true
      ∧ (nextOf (busWrite 32 0x008 0x00000003 noDevice)).any (fun t => resultWord t == 0x00000006) = true
      ∧ (nextOf (busWrite 32 0x008 0x00000002 noDevice)).any (fun t => resultWord t == 0x00000007) = true := by
  decide +kernel

/-- V-CM-15 to V-CM-23: register reads. -/
theorem test_register_read_vectors :
    [0x004, 0x008, 0x014, 0x01C, 0x020, 0x028, 0x02C, 0x030, 0x2FC, 0x300].map (reading · State.reset)
      = [some 0x00000002, some 0, some 0x00008000, some 0x00008000, some 0x00000800, some 0x00000080,
          some 0x00000401, some 0, some 0, some 0]
      ∧ reading 0x02C (State.start buildF3 true) = some 0x00000603 := by decide +kernel

/-- V-RX-12: STATUS in PAYLOAD at RWIDX 4. -/
theorem test_status_vector :
    statusWord { State.reset with rxst := .payload, rwidx := 4 } = 0x00000432#32 := by decide +kernel

/-- P6, steps 6 and 8: STATUS while a TRANSMIT is held, without and with OVERLAP. -/
theorem test_status_busy_vector :
    statusWord { State.reset with busy := true, curop := .transmit } = 0x00001003#32
      ∧ statusWord { State.reset with busy := true, curop := .transmit, overlap := true } = 0x00001007#32 := by
  decide +kernel

/-- V-ST-7: AUDIO_OUT of more than TXS holds. -/
theorem test_audio_out_vector :
    (nextOf (audioOut 8 { idle with txs := holding [0xFF, 0x3F, 0xB0, 0x3F] })).any (fun t =>
      t.replies == [.audioOut [0xFF, 0x3F, 0xB0, 0x3F, 0, 0, 0, 0]] && t.txs.cnt == 0) = true := by decide +kernel

/-- P1 step 1 and P8 step 1: LOADTX packs the first byte lowest. -/
theorem test_loadtx_vector :
    (HostLine.loadTx [0x4F, 0x4B]).expand = [.busWrite 32 0x100 0x00004B4F] ∧ pollAgain 0x00001003 = true := by
  decide +kernel

/-- 70_reset_and_hazards.md R850: an AUDIO_OUT left does not keep a run from its end; an AUDIO_IN, a HOST turn or BUSY = 1
does. -/
theorem test_run_ended :
    runEnded { idle with schedule := [.audioOut 2, .engine] } = true
      ∧ runEnded { idle with schedule := [.audioOut 2, .audioIn []] } = false
      ∧ runEnded { idle with schedule := [.busRead 32 0x004] } = false ∧ runEnded (receiving []) = false := by
  decide +kernel

/-! ### Witnesses: states and operands that meet the hypotheses of the statements -/

theorem witness_DecodeAndEncodeAgree :
    decode 0x0000FF01#32 = .ok (.transmit 255) ∧ Instr.wf (.transmit 255) = true
      ∧ encode (.transmit 255) = 0x0000FF01#32 := by decide

theorem witness_OpcodeRowsAreTheDecoder :
    decode 0x0000FF01#32 = .ok (.transmit 255) ∧ decode 0x00000002#32 = .ok .receive
      ∧ legal 0x00000003#32 = false := by decide

theorem witness_LegalWordsAreTheRulesFormula :
    legal 0x0000FF01#32 = true ∧ legal 0x00000002#32 = true ∧ legal 0x00000102#32 = false := by decide

theorem witness_StepRunsTheDecodedCommand :
    ({ idle with schedule := [write 0x008 0x0000FF01, .engine] } : State).build.legal = true
      ∧ ({ idle with schedule := [write 0x008 0x0000FF01, .engine] } : State).schedule
        = .busWrite 32 0x008#12 0x0000FF01 :: [.engine]
      ∧ decode 0x0000FF01#32 = .ok (.transmit 255) := by decide +kernel

theorem witness_StepTakesTheNextTurn :
    idle.build.legal = true ∧ idle.schedule = []
      ∧ ({ idle with schedule := [.engine] } : State).schedule = .engine :: [] := by decide +kernel

/-- N odd, a carrier at DC and at Nyquist, a ROM that is not the formula's, and a legal build. -/
theorem witness_IllegalBuildIsRefused :
    (State.start { tiny with N := 7 } true).build.legal = false ∧ 0 ∈ ({ tiny with freq := [0] } : Build).freq
      ∧ tiny.N / 2 ∈ ({ tiny with freq := [4] } : Build).freq
      ∧ isIllegalBuild (step (State.start { tiny with N := 7 } true)) = true
      ∧ isIllegalBuild (step (State.start { tiny with cosq := tiny.cosq.set 1 5 } true)) = true
      ∧ tiny.legal = true := by decide +kernel

theorem witness_NoStepOfALegalBuildStops : idle.build.legal = true := by decide +kernel

/-- Both ends of SIZE, and both ends of TXBUF for the write after the issue. -/
theorem witness_TransmitIssueBuildsTheFrame :
    255 ≤ 255 ∧ 0 ≤ 255 ∧ idle.busy = false ∧ idle.operational = true
      ∧ (∃ t, busWrite 32 0x100 0xFFFFFFFF (sendingAt 0) = .next t ∧ (t.txbuf.length == 4) = true)
      ∧ (∃ t, busWrite 32 0x1FC 0xFFFFFFFF (sendingAt 0) = .next t ∧ (t.txbuf.length == 4) = true) :=
  ⟨by decide, by decide, rfl, rfl, reaches (check := fun t => t.txbuf.length == 4) (by decide +kernel),
    reaches (check := fun t => t.txbuf.length == 4) (by decide +kernel)⟩

theorem witness_ReceiveIssueOnlyStartsTheCommand : idle.busy = false ∧ idle.operational = true := ⟨rfl, rfl⟩

/-- Issued, overlapped and refused. -/
theorem witness_CommandIssueFrame :
    idle.build.legal = true ∧ 255 ≤ 255 ∧ idle.tfb.within idle.build.frameBufferBytes = true
      ∧ (sendingAt 3).tfb.within tiny.frameBufferBytes = true
      ∧ (∃ t, exec (.transmit 255) idle = .next t ∧ t.busy = true)
      ∧ (∃ t, exec (.transmit 255) (sendingAt 3) = .next t ∧ t.overlap = true)
      ∧ (∃ t, exec (.transmit 255) noDevice = .next t ∧ (t.rcode == .notOperational) = true)
      ∧ (∃ t, exec .receive idle = .next t ∧ t.busy = true) :=
  ⟨by decide +kernel, by decide, by decide +kernel, by decide +kernel, reaches (check := State.busy) (by decide +kernel),
    reaches (check := State.overlap) (by decide +kernel),
    reaches (check := fun t => t.rcode == .notOperational) (by decide +kernel),
    reaches (check := State.busy) (by decide +kernel)⟩

/-- Busy; and OVERLAP set before a step that keeps it, that clears it by STATUS, and that resets. -/
theorem witness_OverlapIsStickyAndTheOnlyEffect :
    (receiving []).busy = true ∧ ({ receiving [] with overlap := true } : State).overlap = true
      ∧ (∃ t, step { receiving [] with overlap := true } = .next t ∧ t.overlap = true)
      ∧ (∃ t, step { receiving [] with overlap := true, schedule := [write 0x004 4] } = .next t
          ∧ (!t.overlap) = true)
      ∧ (∃ t, step { receiving [] with overlap := true, schedule := [.reset true] } = .next t
          ∧ (!t.overlap) = true) :=
  ⟨rfl, rfl, reaches (check := State.overlap) (by decide +kernel), reaches (check := fun t => !t.overlap) (by decide +kernel),
    reaches (check := fun t => !t.overlap) (by decide +kernel)⟩

/-- A word for each clause: each reserved bit field, a reserved OP, a RECEIVE with SIZE. -/
theorem witness_IllegalWordWritesOnlyResult :
    idle.busy = false ∧ legal 0x00000003#32 = false
      ∧ 0x00000011#32 &&& 0xFFFF00F0#32 ≠ 0#32 ∧ 0x80000001#32 &&& 0xFFFF00F0#32 ≠ 0#32
      ∧ (0x0000000F#32).extractLsb' 0 4 ≠ 1#4 ∧ (0x0000000F#32).extractLsb' 0 4 ≠ 2#4
      ∧ (0x00000102#32).extractLsb' 0 4 = 2#4 ∧ (0x00000102#32).extractLsb' 8 8 ≠ 0#8 := by decide +kernel

theorem witness_NotOperationalRefusesEveryCommand :
    noDevice.busy = false ∧ legal 0x00000002#32 = true ∧ noDevice.operational = false
      ∧ (∃ t, step { noDevice with schedule := [.reset true] } = .next t
          ∧ (t.operational != noDevice.operational) = true)
      ∧ 0x000#12 ≠ 0x008#12 ∧ (∃ t, busWrite 32 0x000 7 noDevice = .next t ∧ t.adaptEn = true)
      ∧ Register.ctrl ≠ .status :=
  ⟨rfl, by decide, rfl, reaches (check := fun t => t.operational != noDevice.operational) (by decide +kernel),
    by decide, reaches (check := State.adaptEn) (by decide +kernel), by decide⟩

/-- Each cause at the ends of its range, and the mapped offsets at the ends of theirs. -/
theorem witness_BusErrorsAreLoggedAndChangeNothing :
    ((16 : Nat) ≠ 32 ∧ (0x002#12).toNat % 4 ≠ 0 ∧ (0xFFF#12).toNat % 4 ≠ 0)
      ∧ (0x030 ≤ (0x030#12).toNat ∧ (0x030#12).toNat ≤ 0x0FF) ∧ (0x030 ≤ (0x0FC#12).toNat ∧ (0x0FC#12).toNat ≤ 0x0FF)
      ∧ 0x300 ≤ (0x300#12).toNat ∧ 0x300 ≤ (0xFFC#12).toNat
      ∧ ((0x000#12).toNat % 4 = 0 ∧ (0x000#12).toNat < 0x030) ∧ ((0x02C#12).toNat % 4 = 0 ∧ (0x02C#12).toNat < 0x030)
      ∧ ((0x100#12).toNat % 4 = 0 ∧ 0x100 ≤ (0x100#12).toNat ∧ (0x100#12).toNat < 0x300)
      ∧ ((0x2FC#12).toNat % 4 = 0 ∧ 0x100 ≤ (0x2FC#12).toNat ∧ (0x2FC#12).toNat < 0x300) := by decide

/-- A legal build whose RXS_BYTES is the largest a 32-bit register can hold, and the first it cannot, with what its register
reads being the free value. -/
theorem witness_RegisterFieldsReadAtTheirOffsets :
    ({ tiny with rxsBytes := 2 ^ 32 - 2 } : Build).legal = true ∧ 2 ^ 32 - 2 < 2 ^ 32 ∧ idle.rxs.cnt < 2 ^ 32
      ∧ idle.txs.cnt < 2 ^ 32 ∧ tiny.txsBytes < 2 ^ 32
      ∧ ({ tiny with rxsBytes := 2 ^ 32 } : Build).legal = true
      ∧ countWord (2 ^ 32 - 2) = 0xFFFFFFFE#32 := by decide +kernel

/-- The first and the last word. -/
theorem witness_BufferWordsMoveFourBytes : 0 < 64 ∧ 63 < 64 ∧ idle.txbuf.wf = true := by decide

theorem witness_CtrlWriteSetsThePoliciesAndReloadsThr : idle.build.legal = true ∧ idle.busy = false := by decide +kernel

/-- A stream of capacity 8 with 6 bytes, its oldest at index 4; data that overflows and data that does not; a read of
all it holds and a read of more. -/
theorem witness_StreamsKeepTheNewestInOrder :
    StreamInv 8 ⟨[(4, 1)], 4, 6⟩ ∧ 8 % 2 = 0 ∧ ([1, 2, 3, 4] : List Byte).length % 2 = 0
      ∧ 8 < (⟨[(4, 1)], 4, 6⟩ : Stream).cnt + ([1, 2, 3, 4] : List Byte).length
      ∧ 6 ≤ (⟨[(4, 1)], 4, 6⟩ : Stream).cnt ∧ (⟨[(4, 1)], 4, 6⟩ : Stream).cnt < 7 := by
  unfold StreamInv; decide +kernel

theorem witness_StreamInvariantIsKept :
    tiny.legal = true ∧ StreamsInv (sendingAt 0) ∧ ∃ t, step (sendingAt 0) = .next t ∧ (t.txs.cnt == 16) = true :=
  ⟨by decide +kernel, by unfold StreamsInv StreamInv; decide +kernel,
    reaches (check := fun t => t.txs.cnt == 16) (by decide +kernel)⟩

/-- A chunk that fits and, in a full stream, one that does not. -/
theorem witness_AudioInAppendsToRxs :
    tiny.legal = true ∧ StreamsInv idle ∧ StreamsInv { idle with rxs := holdingMany 1024 } ∧ idle.operational = true
      ∧ ([1, 2] : List Byte).length % 2 = 0
      ∧ ({ idle with rxs := holdingMany 1024, schedule := [.audioIn [1, 2]] } : State).schedule
        = .audioIn [1, 2] :: [] := by unfold StreamsInv StreamInv; decide +kernel

theorem witness_AudioOutDrainsTxsWithSilence :
    tiny.legal = true ∧ StreamsInv { idle with txs := holding [1, 2], schedule := [.audioOut 4] }
      ∧ idle.operational = true ∧ 4 % 2 = 0 ∧ 3 % 2 ≠ 0 := by unfold StreamsInv StreamInv; decide +kernel

theorem witness_PortErrorsAreLoggedAndChangeNothing :
    idle.operational = true ∧ ([1, 2, 3] : List Byte).length % 2 ≠ 0 ∧ 3 % 2 ≠ 0 := by decide

theorem witness_AgentsWithoutAStepChangeNothing : noDevice.operational = false ∧ idle.busy = false := ⟨rfl, rfl⟩

theorem witness_EncodeIsExact : tiny.legal = true ∧ ([true] : Multibit).length = tiny.F := by decide +kernel

/-- The size byte 1 of a Frame: its bit 7, in Window 15 of Multibyte 1, is clear. -/
theorem witness_SilentWindowIsTheZeroMultibit :
    7 < 8 ∧ 8 * 1 + 7 < 40
      ∧ ∀ c, c < tiny.F → ((Memory.ofBytes [0xFF, 1]).read (1 * tiny.F + c)).getLsbD 7 = false := by decide +kernel

theorem witness_DatapathWidths : tiny.legal = true := by decide +kernel

theorem witness_PowerlessWindows : tiny.legal = true ∧ ∀ n, 0 < n → (spike 5000).getD n 0 = 0 := by
  refine ⟨by decide +kernel, fun n hn => ?_⟩
  cases n with
  | zero => omega
  | succ n =>
    rw [spike, List.getD_cons_succ, List.getD_eq_getElem?_getD, List.getElem?_replicate]
    split <;> rfl

/-- A carrier and a bin that is no carrier, the last below Nyquist. -/
theorem witness_ThresholdTestsCompareMagnitudes :
    tiny.legal = true ∧ 0 < tiny.F ∧ 1 ≤ 3 ∧ 3 < tiny.N / 2 ∧ 3 ∉ tiny.freq := by decide +kernel

/-- One byte short of a Sample is no whole Sample, so the short stream is empty; a Sample at THR and one above it. -/
theorem witness_ScanStepConsumesOneSample :
    (receiving []).busy = true ∧ (receiving []).curop = .receive ∧ (receiving []).rxst = .scanning
      ∧ (receiving []).rxs.cnt < 2 ∧ 2 ≤ (receiving [0x00, 0x08]).rxs.cnt
      ∧ (2048 : Sample).toInt.natAbs ≤ (receiving [0x00, 0x08]).thr.toNat
      ∧ (receiving [0x01, 0x08]).thr.toNat < (2049 : Sample).toInt.natAbs
      ∧ (2049 : Sample) = (receiving [0x01, 0x08]).rxs.buf.read 1 ++ (receiving [0x01, 0x08]).rxs.buf.read 0 := by
  decide +kernel

/-- Window 0 with its first Sample held, Windows 6 and 7, a Window that fails, and one that is not all there. -/
theorem witness_SyncStepTestsOneWindow :
    (syncingAt 0 ones).busy = true ∧ (syncingAt 0 ones).curop = .receive ∧ (syncingAt 0 ones).rxst = .syncing
      ∧ (tiny.N - (syncingAt 0 ones).wfill) * 2 ≤ (syncingAt 0 ones).rxs.cnt
      ∧ (syncingAt 0 ones).wfill ≤ tiny.N ∧ (syncingAt 0 ones).wbuf.length = tiny.N
      ∧ (syncingAt 7 (ones.take 7)).rxs.cnt < (tiny.N - (syncingAt 7 (ones.take 7)).wfill) * 2
      ∧ sigCheck tiny false (spike 5000) = false ∧ sigCheck tiny false ones = true
      ∧ (syncingAt 6 ones).rwidx.toNat < 7 ∧ (syncingAt 7 ones).rwidx.toNat = 7
      ∧ (nextOf (engineStep (syncingAt 0 ones))).any (fun t => t.rwidx == 1 && t.rxst == .syncing) = true
      ∧ (nextOf (engineStep (syncingAt 6 ones))).any (fun t => t.rwidx == 7 && t.rxst == .syncing) = true
      ∧ (nextOf (engineStep (syncingAt 7 ones))).any (fun t => t.rwidx == 0 && t.rxst == .header) = true
      ∧ (nextOf (engineStep (syncingAt 0 (spike 5000)))).any (fun t => t.sigrej == 1 && t.rxst == .scanning) = true := by
  decide +kernel

theorem witness_SynchronizedCalibrates :
    tiny.legal = true ∧ sigCheck tiny (syncingAt 7 ones).nfSyncEn ones = true
      ∧ sigCheck tiny true ones = true := by decide +kernel

theorem witness_RejectReturnsToScanning :
    ({ syncingAt 0 ones with adaptEn := true } : State).adaptEn = true ∧ (syncingAt 0 ones).adaptEn = false := ⟨rfl, rfl⟩

/-- A CTRL write, a reset, a synchronization and an adaptive rejection, each of which changes THR. -/
theorem witness_ThresholdChangesOnlyByItsRules :
    idle.busy = false ∧ (∃ t, busWrite 32 0x000 7 idle = .next t ∧ t.adaptEn = true)
      ∧ (∃ t, step { idle with thr := 5, schedule := [write 0x000 7] } = .next t ∧ (t.thr != 5) = true)
      ∧ (∃ t, step { idle with thr := 5, schedule := [.reset true] } = .next t ∧ (t.thr != 5) = true)
      ∧ (∃ t, step { syncingAt 7 ones with thr := 5 } = .next t ∧ (t.thr != 5) = true)
      ∧ (∃ t, step { syncingAt 0 (spike 5000) with thr := 5, vtrig := 5000, adaptEn := true } = .next t
          ∧ (t.thr == 10000) = true) :=
  ⟨rfl, reaches (check := State.adaptEn) (by decide +kernel), reaches (check := fun t => t.thr != 5) (by decide +kernel),
    reaches (check := fun t => t.thr != 5) (by decide +kernel), reaches (check := fun t => t.thr != 5) (by decide +kernel),
    reaches (check := fun t => t.thr == 10000) (by decide +kernel)⟩

/-- The least VTRIG and the least THR of the rule, and a deaf receiver that a loud Sample, a CTRL write and a reset
meet. -/
theorem witness_AdaptiveDeafness :
    16384 ≤ ({ idle with vtrig := 16384, adaptEn := true } : State).vtrig.toNat ∧ 32768 ≤ (32768 : BitVec 17).toNat
      ∧ (∃ t, step { receiving [0x00, 0x80] with thr := 32768 } = .next t
          ∧ (t.rxst == .scanning && t.thr == 32768) = true)
      ∧ (∃ t, step { idle with thr := 32768, schedule := [write 0x000 4] } = .next t ∧ (t.thr == 2048) = true)
      ∧ (∃ t, step { idle with thr := 32768, schedule := [.reset true] } = .next t ∧ (t.thr == 2048) = true) :=
  ⟨by decide, by decide, reaches (check := fun t => t.rxst == .scanning && t.thr == 32768) (by decide +kernel),
    reaches (check := fun t => t.thr == 2048) (by decide +kernel),
    reaches (check := fun t => t.thr == 2048) (by decide +kernel)⟩

/-- At THR = 0, with silence in RXS and more silence coming. -/
theorem witness_SilenceNeverTriggers :
    StreamsInv { receiving [0, 0, 0, 0] with thr := 0 } ∧ (receiving [0, 0, 0, 0]).rxst = .scanning
      ∧ (∀ x ∈ (receiving [0, 0, 0, 0]).rxs.contents tiny.rxsBytes, x = 0)
      ∧ (∃ t, step { receiving [0, 0, 0, 0] with thr := 0 } = .next t ∧ (t.rxs.cnt == 2) = true)
      ∧ (∃ t, step { receiving [0, 0, 0, 0] with thr := 0, schedule := [.audioIn [0, 0]] } = .next t
          ∧ (t.rxs.cnt == 6) = true) :=
  ⟨by unfold StreamsInv StreamInv; decide +kernel, rfl, by decide +kernel,
    reaches (check := fun t => t.rxs.cnt == 2) (by decide +kernel),
    reaches (check := fun t => t.rxs.cnt == 6) (by decide +kernel)⟩

/-- Both ends of the size. -/
theorem witness_FrameLayout :
    1 ≤ tiny.F ∧ ([] : List Byte).length = 0 ∧ 0 ≤ 255 ∧ (List.replicate 255 (7 : Byte)).length = 255 ∧ 255 ≤ 255 :=
  ⟨by decide, rfl, by decide, List.length_replicate .., by decide⟩

theorem witness_SignatureDrivesEveryCarrier : 1 ≤ buildF3.F ∧ 0 < 8 ∧ 7 < 8 := by decide

/-- A frame buffer that holds the Frame of "A", and one whose payload byte is another (V-FR-6). -/
theorem witness_AcceptFrameIsTheDigestGate :
    1 ≤ tiny.F ∧ ([0x41] : List Byte).length ≤ 255
      ∧ (∀ i, i < tiny.F + 3 + 1 → (validatingWith [0xFF, 0x01, 0x7F, 0xC5, 0x41]).fb.read i
          = (buildFrame tiny [0x41] 1).getD i 0)
      ∧ acceptFrame (validatingWith [0xFF, 0x01, 0x7F, 0xC5, 0x41]) = true
      ∧ acceptFrame (validatingWith [0xFF, 0x01, 0x7F, 0xC5, 0x40]) = false := by decide +kernel

/-- A hold one Sample short of room, the last data Window and the gap Window. -/
theorem witness_EmitWindowAppendsOneWindow :
    tiny.legal = true ∧ StreamsInv { sendingAt 31 with txs := holdingMany 1010 }
      ∧ (sendingAt 31).busy = true ∧ (sendingAt 31).curop = .transmit ∧ (sendingAt 32).tidx ≤ (sendingAt 32).tnw
      ∧ tiny.txsBytes - (holdingMany 1010).cnt < tiny.N * 2
      ∧ tiny.N * 2 ≤ tiny.txsBytes - (sendingAt 31).txs.cnt
      ∧ (sendingAt 31).tidx < (sendingAt 31).tnw ∧ (sendingAt 32).tidx = (sendingAt 32).tnw := by
  unfold StreamsInv StreamInv; decide +kernel

theorem witness_TransmitSendsTheWholeFrame :
    let s := { idle with schedule := [write 0x008 (encode (.transmit 0))] }
    tiny.legal = true ∧ StreamsInv s ∧ s.busy = false ∧ s.operational = true ∧ 0 ≤ 255
      ∧ s.schedule = [.busWrite 32 0x008#12 (encode (.transmit 0))]
      ∧ (8 * tiny.multibytes 0 + 1) * (tiny.N * 2) ≤ tiny.txsBytes - s.txs.cnt := by
  unfold StreamsInv StreamInv; decide +kernel

/-- SCANNING with nothing, SYNCING one Sample short, and HEADER one Sample short. -/
theorem witness_NoDataYetKeepsTheReceiver :
    (receiving []).operational = true ∧ (receiving []).rxst = .scanning ∧ (receiving []).rxs.cnt < 2
      ∧ (syncingAt 0 (ones.take 7)).rxst ≠ .scanning ∧ (syncingAt 0 (ones.take 7)).rxst ≠ .validating
      ∧ (syncingAt 0 (ones.take 7)).rxs.cnt < (tiny.N - (syncingAt 0 (ones.take 7)).wfill) * 2
      ∧ (headerAt 3 (ones.take 7)).busy = true ∧ (headerAt 3 (ones.take 7)).curop = .receive
      ∧ (headerAt 3 (ones.take 7)).rxst = .header
      ∧ (headerAt 3 (ones.take 7)).rxs.cnt < (tiny.N - (headerAt 3 (ones.take 7)).wfill) * 2 := by decide +kernel

/-- An abort on a Window that fails the noise-floor check, and a set bit stored at the ends of RWIDX. -/
theorem witness_DecodeStepStoresOneMultibit :
    (headerAt 0 ones).busy = true ∧ (headerAt 0 ones).curop = .receive ∧ (headerAt 0 ones).rxst = .header
      ∧ (headerAt 0 ones).fb.wf = true ∧ (headerAt 0 ones).wfill = 0 ∧ tiny.N * 2 ≤ (headerAt 0 ones).rxs.cnt
      ∧ noiseOk tiny (0 :: 5000 :: List.replicate 6 0) = false
      ∧ (nextOf (engineStep { headerAt 2 (0 :: 5000 :: List.replicate 6 0) with nfDecEn := true })).any
        (fun t => t.rcode == .frameAborted && t.fb == [(0, 0xFF)]) = true
      ∧ (headerAt 6 ones).rwidx.toNat < 7 ∧ (headerAt 7 ones).rwidx.toNat = 7
      ∧ (nextOf (engineStep (headerAt 0 ones))).any (fun t => t.fb.read 1 == 0x01 && t.rwidx == 1) = true
      ∧ (nextOf (engineStep (headerAt 7 ones))).any (fun t =>
          t.fb.read 1 == 0x80 && t.rwidx == 0 && t.rcvd == 2 && t.rxst == .payload) = true := by decide +kernel

/-- Delivered and mismatched. -/
theorem witness_ValidateStepDeliversOrReports :
    let s := validatingWith [0xFF, 0x01, 0x7F, 0xC5, 0x41]
    let bad := validatingWith [0xFF, 0x01, 0x7F, 0xC5, 0x43]
    s.busy = true ∧ s.curop = .receive ∧ s.rxst = .validating ∧ bad.rxst = .validating ∧ acceptFrame s = true
      ∧ acceptFrame bad = false ∧ 1 ≤ tiny.F
      ∧ (nextOf (engineStep s)).any (fun t => resultWord t == 0x00000103 && reading 0x200 t == some 0x41) = true
      ∧ (nextOf (engineStep bad)).any (fun t => resultWord t == 0x00000004) = true := by decide +kernel

/-- A build after reset whose RXS has been given `data`, with RECEIVE in progress or not. -/
def fed (b : Build) (data : List Byte) (started : Bool) : State :=
  { State.start b true with
    rxs := (⟨[], 0, 0⟩ : Stream).write b.rxsBytes data
    busy := started
    curop := if started then .receive else .none }

/-- The invariant holds of every such state of a build whose sizes are in bounds. -/
theorem inv_fed (b : Build) (data : List Byte) (started : Bool) (hr : b.rxsBytes % 2 = 0) (hr0 : 0 < b.rxsBytes)
    (ht0 : 0 < b.txsBytes) (hthr : (baseThreshold b).toNat ≤ 65536) (hdata : data.length % 2 = 0) :
    Inv (fed b data started) := by
  refine ⟨⟨?_, ?_⟩, ⟨rfl, rfl, rfl, rfl, rfl, rfl⟩, ⟨?_, fun _ => rfl, fun h => absurd rfl h, Nat.zero_le _,
    Nat.zero_le _, fun _ => Nat.le_refl _⟩, ⟨fun _ => rfl, by simp [fed, State.start], hthr⟩,
    fun h => by simp [fed, State.start] at h, ?_⟩
  · exact StreamInv.write ⟨Nat.zero_le _, rfl, hr0, rfl, rfl, rfl⟩ hr hdata
  · exact ⟨Nat.zero_le _, rfl, ht0, rfl, rfl, rfl⟩
  · cases started <;> simp [fed]
  · refine ⟨by simp [fed, State.start], by simp [fed, State.start], by simp [fed, State.start], fun _ => rfl,
      Nat.zero_le _, fun h => by simp [fed, State.start] at h, fun h => by simp [fed, State.start] at h,
      fun h => by simp [fed, State.start] at h, ?_, ?_⟩
    · intro h; simp [fed, State.start, inFrame, decoding] at h
    · intro h; simp [fed, State.start, decoding] at h

/-- What was written to an empty stream is what it holds, if it fits. -/
theorem contents_fed (b : Build) (data : List Byte) (started : Bool) (h0 : 0 < b.rxsBytes)
    (hlen : data.length ≤ b.rxsBytes) : (fed b data started).rxs.contents b.rxsBytes = data := by
  have hd : overflowDiscard b.rxsBytes 0 data.length = 0 := by unfold overflowDiscard; rw [if_neg (by omega)]
  have hs : (fed b data started).rxs = ⟨storeCircular b.rxsBytes 0 data [], 0, data.length⟩ := by
    simp [fed, Stream.write, Nat.sub_eq_zero_of_le hlen, hd]
  rw [hs, Stream.contents, Stream.oldest]
  apply List.ext_getElem (by simp)
  intro i h1 h2
  simp only [List.getElem_map, List.getElem_range]
  rw [read_storeCircular rfl hlen h2]
  exact List.getD_eq_getElem _ _ h2

/-- The parameters of the two builds the next witnesses use. -/
theorem bounds_of_the_builds :
    (tiny.rxsBytes % 2 = 0 ∧ 0 < tiny.rxsBytes ∧ 0 < tiny.txsBytes ∧ (baseThreshold tiny).toNat ≤ 65536)
      ∧ (referenceBuild.rxsBytes % 2 = 0 ∧ 0 < referenceBuild.rxsBytes ∧ 0 < referenceBuild.txsBytes
        ∧ (baseThreshold referenceBuild).toNat ≤ 65536) := by decide +kernel

/-- RECEIVE in progress with a loud Sample in RXS. -/
theorem witness_ReceiveNeverHolds :
    (fed tiny [0x01, 0x08] true).build.legal = true ∧ ReceiverInv (fed tiny [0x01, 0x08] true)
      ∧ (fed tiny [0x01, 0x08] true).busy = true ∧ (fed tiny [0x01, 0x08] true).curop = .receive := by
  obtain ⟨⟨h1, h2, h3, h4⟩, -⟩ := bounds_of_the_builds
  exact ⟨by decide +kernel, (inv_fed tiny [0x01, 0x08] true h1 h2 h3 h4 rfl).2.2.2.2.2, rfl, rfl⟩

theorem witness_ReceiveFinishes :
    (fed tiny [0x01, 0x08] true).build.legal = true ∧ Inv (fed tiny [0x01, 0x08] true)
      ∧ (fed tiny [0x01, 0x08] true).busy = true ∧ (fed tiny [0x01, 0x08] true).curop = .receive
      ∧ (fed tiny [0x01, 0x08] true).schedule = [] := by
  obtain ⟨⟨h1, h2, h3, h4⟩, -⟩ := bounds_of_the_builds
  exact ⟨by decide +kernel, inv_fed tiny [0x01, 0x08] true h1 h2 h3 h4 rfl, rfl, rfl, rfl⟩

/-- One zero Sample and the Frame of the empty payload, 8450 bytes (V-FR-2). -/
def zerosThenFrame : List Byte := List.replicate (2 * 1) 0 ++ wireBytes referenceBuild [] 0

theorem length_zerosThenFrame : zerosThenFrame.length = 8450 := by decide +kernel

theorem witness_RoundTripDeliversThePayload :
    let s := { fed referenceBuild zerosThenFrame false with schedule := [write 0x008 (encode .receive)] }
    s.build = { referenceBuild with
        rxsBytes := s.build.rxsBytes, txsBytes := s.build.txsBytes, digest := s.build.digest }
      ∧ s.build.legal = true ∧ Inv s ∧ s.operational = true ∧ s.busy = false ∧ s.nfSyncEn = false ∧ s.nfDecEn = false
      ∧ s.rxst = .scanning ∧ s.thr.toNat = 2048 ∧ ([] : List Byte).length ≤ 255
      ∧ s.schedule = [.busWrite 32 0x008#12 (encode .receive)]
      ∧ s.rxs.contents s.build.rxsBytes = List.replicate (2 * 1) 0 ++ wireBytes s.build [] ([] : List Byte).length := by
  obtain ⟨-, ⟨h1, h2, h3, h4⟩⟩ := bounds_of_the_builds
  exact ⟨rfl, by decide +kernel,
    inv_fed referenceBuild zerosThenFrame false h1 h2 h3 h4 (by rw [length_zerosThenFrame]),
    rfl, rfl, rfl, rfl, rfl, by decide +kernel, by decide, rfl,
    contents_fed referenceBuild zerosThenFrame false h2 (by rw [length_zerosThenFrame]; decide +kernel)⟩

/-- The state after the first `k` turns. -/
def after (s : State) (turn : Nat → Action) : Nat → State
  | 0 => s
  | k + 1 => (nextOf (step (offer (turn k) (after s turn k)))).getD s

/-- None of the turns stops a machine of the build `b`. -/
def GoesOn (b : Build) (turn : Nat → Action) : Prop :=
  ∀ k t, t.build = b → ∃ u, step (offer (turn k) t) = .next u ∧ u.build = b

theorem after_step {b : Build} {turn : Nat → Action} (h : GoesOn b turn) {s : State} (hs : s.build = b) (k : Nat) :
    (after s turn k).build = b ∧ step (offer (turn k) (after s turn k)) = .next (after s turn (k + 1)) := by
  have hb : (after s turn k).build = b := by
    induction k with
    | zero => exact hs
    | succ k ih =>
      obtain ⟨u, hu, hb⟩ := h k _ ih
      simpa [after, hu, nextOf] using hb
  obtain ⟨u, hu, -⟩ := h k _ hb
  exact ⟨hb, by simp [after, hu, nextOf]⟩

/-- The run from `s` with those turns and a HOST whose program is over. -/
def runFrom {b : Build} {turn : Nat → Action} (h : GoesOn b turn) (s : State) (hs : s.build = b) : Run where
  state := after s turn
  turn := turn
  hostReady := fun _ => false
  taken := fun k => (after_step h hs k).2

/-- The ENGINE, then nothing from the audio device, then one Sample for it, and again. -/
def inTurn (k : Nat) : Action := if k % 3 = 0 then .engine else if k % 3 = 1 then .audioIn [] else .audioOut 2

theorem inTurn_at (k : Nat) :
    inTurn (3 * k) = .engine ∧ inTurn (3 * k + 1) = .audioIn [] ∧ inTurn (3 * k + 2) = .audioOut 2 := by
  refine ⟨?_, ?_, ?_⟩ <;> simp [inTurn, Nat.add_mod]

/-- None of these turns stops a run of the small build. -/
theorem inTurn_goes_on : GoesOn tiny inTurn := by
  intro k t ht
  have hl : (offer (inTurn k) t).build.legal = true := by rw [show (offer (inTurn k) t).build = tiny from ht]; decide +kernel
  rw [step_of_legal hl]
  unfold takeTurn
  simp only [offer]
  unfold inTurn
  split
  · obtain ⟨u, h1, h2⟩ := engineStep_next { t with schedule := [] }
    exact ⟨u, h1, by rw [h2]; exact ht⟩
  · split
    · exact ⟨_, rfl, by rw [build_audioIn]; exact ht⟩
    · obtain ⟨u, h1, h2⟩ := audioOut_next 2 { t with schedule := [] }
      exact ⟨u, h1, by rw [h2]; exact ht⟩

/-- A run of the small build with those turns. -/
def inTurnRun (s : State) (h : s.build = tiny) : Run := runFrom inTurn_goes_on s h

/-- It is weakly fair, PLAYBACK keeps reading, CAPTURE writes nothing and there is no reset. -/
theorem inTurnRun_fair (s : State) (h : s.build = tiny) :
    (inTurnRun s h).WeaklyFair ∧ (inTurnRun s h).PlaybackKeepsReading ∧ (inTurnRun s h).CaptureIsFinite
      ∧ (inTurnRun s h).NoReset := by
  refine ⟨fun g k hk => ?_, fun k => ⟨3 * k + 2, 2, by omega, (inTurn_at k).2.2, by decide, by decide⟩, ⟨0, ?_⟩, ?_⟩
  · cases g with
    | host => exact absurd (hk k le_rfl) (by simp [Run.enabled, inTurnRun, runFrom])
    | engine => exact ⟨3 * k, by omega, congrArg Action.agent (inTurn_at k).1⟩
    | capture => exact ⟨3 * k + 1, by omega, congrArg Action.agent (inTurn_at k).2.1⟩
    | playback => exact ⟨3 * k + 2, by omega, congrArg Action.agent (inTurn_at k).2.2⟩
  · intro i data _ _ hd
    change inTurn i = .audioIn data at hd
    unfold inTurn at hd
    split at hd
    · cases hd
    · split at hd
      · cases hd; rfl
      · cases hd
  · intro k ok hd
    change inTurn k = .reset ok at hd
    unfold inTurn at hd
    split at hd
    · cases hd
    · split at hd <;> cases hd

/-- TRANSMIT of the empty payload, just issued. -/
theorem witness_FairTransmitFinishes :
    let r := inTurnRun (sendingAt 0) rfl
    (r.state 0).build.legal = true ∧ Inv (r.state 0) ∧ (r.state 0).busy = true ∧ (r.state 0).curop = .transmit
      ∧ r.WeaklyFair ∧ r.PlaybackKeepsReading ∧ r.NoReset := by
  obtain ⟨h1, h2, -, h4⟩ := inTurnRun_fair (sendingAt 0) rfl
  obtain ⟨⟨b1, b2, b3, b4⟩, -⟩ := bounds_of_the_builds
  obtain ⟨i1, -, -, i4, -, i6⟩ := inv_fed tiny [] false b1 b2 b3 b4 rfl
  have hb : BuffersInv (sendingAt 0) := by unfold BuffersInv; decide +kernel
  have hc : CommandInv (sendingAt 0) := by unfold CommandInv; decide +kernel
  have hu : UnavailableInv (sendingAt 0) := fun h => Bool.noConfusion (h : true = false)
  exact ⟨by show tiny.legal = true; decide +kernel, ⟨i1, hb, hc, i4, hu, i6⟩, rfl, rfl, h1, h2, h4⟩

theorem witness_FairReceiveFinishes :
    let r := inTurnRun (fed tiny [0x01, 0x08] true) rfl
    (r.state 0).build.legal = true ∧ Inv (r.state 0) ∧ (r.state 0).busy = true ∧ (r.state 0).curop = .receive
      ∧ r.WeaklyFair ∧ r.CaptureIsFinite ∧ r.NoReset := by
  obtain ⟨h1, -, h3, h4⟩ := inTurnRun_fair (fed tiny [0x01, 0x08] true) rfl
  obtain ⟨⟨b1, b2, b3, b4⟩, -⟩ := bounds_of_the_builds
  exact ⟨by show tiny.legal = true; decide +kernel, inv_fed tiny [0x01, 0x08] true b1 b2 b3 b4 rfl, rfl, rfl, h1, h3, h4⟩

theorem audioOut_goes_on : GoesOn tiny fun _ => .audioOut 2 := by
  intro k t ht
  have hl : (offer (.audioOut 2) t).build.legal = true := by
    rw [show (offer (.audioOut 2) t).build = tiny from ht]; decide +kernel
  obtain ⟨u, h1, h2⟩ := audioOut_next 2 { t with schedule := [] }
  exact ⟨u, by rw [step_of_legal hl]; exact h1, by rw [h2]; exact ht⟩

/-- An idle LMC whose Samples PLAYBACK plays out. -/
theorem witness_AfterTheEndOnlyPlaybackMoves :
    let r := runFrom audioOut_goes_on { idle with txs := holding [1, 2] } rfl
    r.EndedAt 0 ∧ r.NoReset ∧ 0 ≤ 1 :=
  ⟨⟨rfl, fun _ _ => ⟨rfl, by simp [runFrom, Action.agent], by simp [runFrom, Action.agent]⟩⟩,
    by intro k ok h; simp [runFrom] at h, by decide⟩

/-- A finish, a refusal at issue and a reset. -/
theorem witness_ResultChangesOnlyAtFinishRefusalOrReset :
    (∃ t, step (receiving []) = .next t ∧ (t.rcode != (receiving []).rcode) = true)
      ∧ (∃ t, step { idle with schedule := [write 0x008 3] } = .next t ∧ (t.rcode != idle.rcode) = true)
      ∧ (∃ t, step { idle with rcode := .delivered, rsize := 1, schedule := [.reset true] } = .next t
          ∧ (t.rsize != 1) = true) :=
  ⟨reaches (check := fun t => t.rcode != (receiving []).rcode) (by decide +kernel),
    reaches (check := fun t => t.rcode != idle.rcode) (by decide +kernel),
    reaches (check := fun t => t.rsize != 1) (by decide +kernel)⟩

/-- A turn of each agent. -/
theorem witness_AgentsKeepToTheirState :
    (∃ t, perform (.audioIn [1, 2]) idle = .next t ∧ (t.rxs != idle.rxs) = true)
      ∧ (∃ t, perform (.audioOut 2) { idle with txs := holding [1, 2] } = .next t ∧ (t.txs.cnt == 0) = true)
      ∧ (∃ t, perform (.busRead 32 0x030) idle = .next t ∧ (t.faultLog != []) = true)
      ∧ (∃ t, perform (write 0x008 0x0000FF01) idle = .next t ∧ t.busy = true)
      ∧ (∃ t, perform .engine (sendingAt 0) = .next t ∧ (t.tidx == 1) = true) :=
  ⟨reaches (check := fun t => t.rxs != idle.rxs) (by decide +kernel),
    reaches (check := fun t => t.txs.cnt == 0) (by decide +kernel),
    reaches (check := fun t => t.faultLog != []) (by decide +kernel),
    reaches (check := State.busy) (by decide +kernel), reaches (check := fun t => t.tidx == 1) (by decide +kernel)⟩

theorem witness_FaultLogOnlyGrows :
    (∃ t, step { idle with schedule := [.busRead 32 0x030] } = .next t ∧ (t.faultLog != idle.faultLog) = true)
      ∧ (∃ t, step idle = .next t ∧ (t.faultLog == idle.faultLog) = true) :=
  ⟨reaches (check := fun t => t.faultLog != idle.faultLog) (by decide +kernel),
    reaches (check := fun t => t.faultLog == idle.faultLog) (by decide +kernel)⟩

/-- A reset while TRANSMIT is in progress (V-RS-3). -/
theorem witness_ResetSetsEveryPieceOfState :
    (sendingAt 3).build.legal = true
      ∧ ({ sendingAt 3 with schedule := [.reset false] } : State).schedule = .reset false :: [] := by decide +kernel

theorem witness_InvariantHoldsAfterReset : tiny.legal = true ∧ tinyOther.legal = true := by decide +kernel

theorem witness_StepKeepsTheInvariant :
    Inv (fed tiny [0x01, 0x08] true)
      ∧ ∃ t, step (fed tiny [0x01, 0x08] true) = .next t ∧ (t.rxst == .syncing) = true := by
  obtain ⟨⟨h1, h2, h3, h4⟩, -⟩ := bounds_of_the_builds
  exact ⟨inv_fed tiny [0x01, 0x08] true h1 h2 h3 h4 rfl, reaches (check := fun t => t.rxst == .syncing) (by decide +kernel)⟩

end Sys2Proof.Tests
end

/-! The statements of 00_scope.md: the conditions of a legal build, and the turn a step takes. -/

namespace Sys2Proof

/-! ### The conditions of a legal build (R11), one lemma per group -/

theorem Build.legalWindow_iff (b : Build) :
    b.legalWindow = true ↔ 0 < b.sampleRate ∧ 2 ∣ b.N ∧ 4 ≤ b.N ∧ b.N ≤ 65536 := by
  simp only [Build.legalWindow, Bool.and_eq_true, decide_eq_true_eq]
  omega

theorem Build.legalCarriers_iff (b : Build) :
    b.legalCarriers = true ↔ 1 ≤ b.F ∧ b.F ≤ min 255 (b.N / 2 - 1) ∧ b.freq.length = b.F
      ∧ (∀ k ∈ b.freq, 1 ≤ k ∧ k ≤ b.N / 2 - 1) ∧ b.freq.Nodup := by
  simp only [Build.legalCarriers, Bool.and_eq_true, decide_eq_true_eq, List.all_eq_true, le_min_iff, and_assoc]

theorem Build.legalLevels_iff (b : Build) :
    b.legalLevels = true ↔ 1 ≤ b.encAmp ∧ b.F * b.encAmp ≤ 32767 ∧ b.triggerLevel ≤ 32767 := by
  simp only [Build.legalLevels, Bool.and_eq_true, decide_eq_true_eq, and_assoc]

theorem Build.legalRatios_iff (b : Build) :
    b.legalRatios = true ↔ 0 < b.sp ∧ b.sp < b.sq ∧ b.sq ≤ 65535 ∧ 0 < b.dp ∧ b.dp < b.dq ∧ b.dq ≤ 65535
      ∧ 0 < b.np ∧ b.np ≤ b.nq ∧ b.nq ≤ 65535 := by
  simp only [Build.legalRatios, Bool.and_eq_true, decide_eq_true_eq, and_assoc]

theorem Build.legalStreams_iff (b : Build) :
    b.legalStreams = true ↔ 2 ∣ b.rxsBytes ∧ b.N * 2 ≤ b.rxsBytes ∧ 2 ∣ b.txsBytes ∧ b.N * 2 ≤ b.txsBytes := by
  simp only [Build.legalStreams, Bool.and_eq_true, decide_eq_true_eq, and_assoc]
  simp only [Build.windowBytes, Config.sampleBytes, Nat.dvd_iff_mod_eq_zero]

/-- A build is legal exactly where each group of conditions holds, the ROM's as the formula of 42_bit_codec.md R452:
the check of the ROM decides the formula only for N > 0, which the Window's conditions give. -/
theorem Build.legal_iff (b : Build) :
    b.legal = true ↔ b.legalWindow = true ∧ b.legalCarriers = true
      ∧ b.cosq.length = b.N ∧ b.sinq.length = b.N ∧ RomFollowsFormula b
      ∧ b.legalLevels = true ∧ b.legalRatios = true ∧ b.legalStreams = true := by
  simp only [Build.legal, Bool.and_eq_true, and_assoc]
  refine and_congr_right fun hwindow => ?_
  obtain ⟨-, -, hN, -⟩ := b.legalWindow_iff.mp hwindow
  rw [legalRom_iff (by omega)]
  simp only [and_assoc]

/-- The carriers of a legal build lie above DC and below Nyquist (R11, R12). -/
theorem Build.carrier_bounds_of_legal {b : Build} (h : b.legal = true) {k : Nat} (hk : k ∈ b.freq) :
    0 < k ∧ k < b.N / 2 := by
  obtain ⟨-, hcarriers, -⟩ := b.legal_iff.mp h
  obtain ⟨-, -, -, hfreq, -⟩ := b.legalCarriers_iff.mp hcarriers
  obtain ⟨hlow, hhigh⟩ := hfreq k hk
  omega

/-- R12's two cases: a carrier at DC or at Nyquist breaks the bounds of a legal build's carriers. -/
theorem Build.illegal_of_carrier_at_dc_or_nyquist {b : Build} (h : 0 ∈ b.freq ∨ b.N / 2 ∈ b.freq) :
    b.legal = false := by
  rw [← Bool.not_eq_true]
  intro hlegal
  rcases h with hdc | hnyquist
  · exact absurd (carrier_bounds_of_legal hlegal hdc).1 (lt_irrefl _)
  · exact absurd (carrier_bounds_of_legal hlegal hnyquist).2 (lt_irrefl _)

/-- Settles O7: the refusal is `step_of_illegal`, R12's two cases follow from the carriers' bounds, and R11's conditions
are read off group by group. -/
theorem illegalBuildIsRefused : Obligations.IllegalBuildIsRefused := by
  refine ⟨fun _ h => Machine.step_of_illegal h, fun _ h => Build.illegal_of_carrier_at_dc_or_nyquist h, fun b => ?_⟩
  rw [b.legal_iff, b.legalWindow_iff, b.legalCarriers_iff, b.legalLevels_iff, b.legalRatios_iff, b.legalStreams_iff]
  simp only [and_assoc]

/-! ### The turn a step takes (R8) -/

/-- Settles O6: a step of a legal build is one turn, and a turn is the schedule's next or, where there is none, the
ENGINE's. -/
theorem stepTakesTheNextTurn : Obligations.StepTakesTheNextTurn := by
  intro s hlegal
  rw [Machine.step_of_legal hlegal]
  rcases Machine.takeTurn_cases s with ⟨hnone, hturn⟩ | ⟨next, later, hnext, hturn⟩
  · refine ⟨fun a rest h => ?_, fun _ => hturn⟩
    rw [hnone] at h
    cases h
  · refine ⟨fun a rest h => ?_, fun h => ?_⟩
    · obtain ⟨rfl, rfl⟩ := List.cons.inj (hnext.symm.trans h)
      exact hturn
    · rw [hnext] at h
      cases h

end Sys2Proof

/-! The statements of 10_state.md: the registers' fields (R110 to R118), the writes of STATUS and of the read-only
registers (R112), TXBUF outside the Frame in progress (R119), and when RESULT changes (R114). -/

namespace Sys2Proof.Machine

/-! ### The registers as words (R111 to R118)

The words are typed by their width, 32, and the library's lemmas on `++` by the sum of two widths: `-Nat.reduceAdd` keeps
`simp` from evaluating that sum. -/

theorem ctrlWord_fields (s : State) :
    (ctrlWord s).getLsbD 0 = s.nfSyncEn ∧ (ctrlWord s).getLsbD 1 = s.nfDecEn ∧ (ctrlWord s).getLsbD 2 = s.adaptEn
      ∧ (ctrlWord s).extractLsb' 3 29 = 0#29 := by
  simp only [ctrlWord, BitVec.getLsbD_append]
  simp (disch := decide) [-Nat.reduceAdd, BitVec.extractLsb'_append_eq_of_le]

theorem statusWord_fields (s : State) :
    (statusWord s).getLsbD 0 = s.busy ∧ (statusWord s).getLsbD 1 = s.operational
      ∧ (statusWord s).getLsbD 2 = s.overlap ∧ (statusWord s).getLsbD 3 = false
      ∧ (statusWord s).extractLsb' 4 3 = s.rxst.code ∧ (statusWord s).getLsbD 7 = false
      ∧ (statusWord s).extractLsb' 8 3 = s.rwidx ∧ (statusWord s).getLsbD 11 = false
      ∧ (statusWord s).extractLsb' 12 2 = s.curop.code ∧ (statusWord s).extractLsb' 14 18 = 0#18 := by
  simp only [statusWord, BitVec.getLsbD_append]
  simp (disch := decide) [-Nat.reduceAdd, BitVec.extractLsb'_append_eq_of_le, BitVec.extractLsb'_append_eq_of_add_le]

theorem resultWord_fields (s : State) :
    (resultWord s).extractLsb' 0 4 = s.rcode.code ∧ (resultWord s).extractLsb' 4 4 = 0#4
      ∧ (resultWord s).extractLsb' 8 8 = s.rsize ∧ (resultWord s).extractLsb' 16 16 = 0#16 := by
  simp (disch := decide) [-Nat.reduceAdd, resultWord, BitVec.extractLsb'_append_eq_of_le,
    BitVec.extractLsb'_append_eq_of_add_le]

theorem toNat_countWord {n : Nat} (h : n < 2 ^ 32) : (countWord n).toNat = n := by
  rw [countWord, if_pos h, BitVec.toNat_ofNat, Nat.mod_eq_of_lt h]

theorem toNat_trigThrWord (s : State) : (trigThrWord s).toNat = s.thr.toNat := by
  simp [-Nat.reduceAdd, trigThrWord]

/-- N fits CFG0's 17 bits, since a legal build has N at most 65536 (R11). -/
theorem toNat_cfg0Word {b : Build} (h : b.legal = true) : (cfg0Word b).toNat = b.N := by
  obtain ⟨hwindow, -⟩ := b.legal_iff.mp h
  obtain ⟨-, -, -, hN⟩ := b.legalWindow_iff.mp hwindow
  simp only [cfg0Word, BitVec.toNat_append, BitVec.toNat_ofNat]
  rw [Nat.mod_eq_of_lt (by omega : b.N < 2 ^ 17)]
  simp

/-- F and H = F + 3 fit CFG1's 8 and 9 bits, since a legal build has F at most 255 (R11). -/
theorem toNat_cfg1Word {b : Build} (h : b.legal = true) : (cfg1Word b).toNat = b.F + 256 * (b.F + 3) := by
  obtain ⟨-, hcarriers, -⟩ := b.legal_iff.mp h
  obtain ⟨-, hF, -⟩ := b.legalCarriers_iff.mp hcarriers
  rw [cfg1Word, BitVec.toNat_append, BitVec.toNat_append, ← Nat.shiftLeft_add_eq_or_of_lt (BitVec.isLt _)]
  simp only [BitVec.toNat_ofNat, Build.headerBytes, Nat.shiftLeft_eq, Nat.zero_mod, Nat.zero_mul, Nat.zero_or]
  omega

/-- A read of a mapped register gives back its value (20_memory.md R206). -/
theorem busRead_replies {off : Offset} {r : Register} (h : busTarget 32 off = some r) (s : State) :
    (busRead 32 off s).replies = s.replies ++ [.readData off (readRegister s r)] := by
  simp only [busRead, h, giveBack_replies]

/-- Settles O17: the encodings by definition, and each offset's register read field by field. -/
theorem registerFieldsReadAtTheirOffsets : Obligations.RegisterFieldsReadAtTheirOffsets := by
  refine ⟨⟨rfl, rfl, rfl, rfl, rfl⟩, ⟨rfl, rfl, rfl⟩, ⟨rfl, rfl, rfl, rfl, rfl, rfl, rfl, rfl⟩, fun s => ?_⟩
  have hread {off : Offset} {r : Register} (h : busTarget 32 off = some r) := busRead_replies h s
  exact ⟨⟨_, hread (r := .ctrl) rfl, ctrlWord_fields s⟩, ⟨_, hread (r := .status) rfl, statusWord_fields s⟩,
    hread (r := .cmd) rfl, ⟨_, hread (r := .result) rfl, resultWord_fields s⟩,
    ⟨_, hread (r := .rxsCount) rfl, toNat_countWord⟩, ⟨_, hread (r := .rxsSize) rfl, toNat_countWord⟩,
    ⟨_, hread (r := .txsCount) rfl, toNat_countWord⟩, ⟨_, hread (r := .txsSize) rfl, toNat_countWord⟩,
    ⟨_, hread (r := .trigThr) rfl, toNat_trigThrWord s⟩, hread (r := .sigrejCnt) rfl,
    fun h => ⟨⟨_, hread (r := .cfg0) rfl, toNat_cfg0Word h⟩, ⟨_, hread (r := .cfg1) rfl, toNat_cfg1Word h⟩⟩⟩

/-! ### Writes of STATUS and of the read-only registers (R112, 20_memory.md R206) -/

/-- A write to a mapped register has the register's effect (20_memory.md R206). -/
theorem busWrite_of_target {width : Nat} {off : Offset} {r : Register} (h : busTarget width off = some r) (v : Word)
    (s : State) : busWrite width off v s = writeRegister v s r := by
  simp only [busWrite, h]

theorem statusWrite_eq (v : Word) (s : State) :
    statusWrite v s = { s with overlap := s.overlap && !v.getLsbD 2 } := by
  unfold statusWrite
  cases v.getLsbD 2 <;> simp

/-- A register that the HOST can only read (10_state.md R110). -/
def Register.readOnly : Register → Bool
  | .ctrl | .status | .cmd | .txbuf _ => false
  | _ => true

theorem writeRegister_readOnly {r : Register} (h : r.readOnly = true) (v : Word) (s : State) :
    writeRegister v s r = .next s := by
  cases r with
  | ctrl | status | cmd | txbuf j => simp [Register.readOnly] at h
  | _ => rfl

/-- A write where the offset names a read-only register changes nothing (20_memory.md R206). -/
theorem busWrite_readOnly {width : Nat} {off : Offset} (h : (busTarget width off).any Register.readOnly = true)
    (v : Word) (s : State) : busWrite width off v s = .next s := by
  cases htarget : busTarget width off with
  | none => simp [htarget] at h
  | some r =>
    rw [htarget] at h
    rw [busWrite_of_target htarget, writeRegister_readOnly h]

/-- Settles O20: offset 0x004 is STATUS, and the nine offsets name read-only registers. -/
theorem statusAndReadOnlyWrites : Obligations.StatusAndReadOnlyWrites := by
  intro s v
  constructor
  · rw [busWrite_of_target (r := .status) rfl, writeRegister, statusWrite_eq]
  · intro off hoff
    simp only [List.mem_cons, List.not_mem_nil, or_false] at hoff
    rcases hoff with rfl | rfl | rfl | rfl | rfl | rfl | rfl | rfl | rfl <;> exact busWrite_readOnly rfl v s

/-! ### The ENGINE and TXBUF (R119) -/

/-- The state with another TXBUF. -/
def State.setTxbuf (m : Memory) (s : State) : State := { s with txbuf := m }

/-- An update of the state that neither reads nor writes TXBUF: it commutes with a change of TXBUF. -/
def IgnoresTxbuf (f : State → State) : Prop :=
  ∀ (s : State) (m : Memory), f (s.setTxbuf m) = (f s).setTxbuf m

/-- A step that always answers a next state and neither reads nor writes TXBUF. -/
def StepIgnoresTxbuf (f : State → Result) : Prop :=
  ∀ (s : State) (m : Memory), ∃ t, f s = .next t ∧ f (s.setTxbuf m) = .next (t.setTxbuf m)

/-- A total update as a step. -/
theorem IgnoresTxbuf.next {f : State → State} (h : IgnoresTxbuf f) : StepIgnoresTxbuf fun s => .next (f s) :=
  fun s m => ⟨f s, rfl, congrArg _ (h s m)⟩

/-- A branch on what TXBUF does not decide, between two updates that ignore it. -/
theorem IgnoresTxbuf.ite {c : State → Prop} [DecidablePred c] {f g : State → State}
    (hc : ∀ (s : State) (m : Memory), c (s.setTxbuf m) ↔ c s) (hf : IgnoresTxbuf f) (hg : IgnoresTxbuf g) :
    IgnoresTxbuf fun s => if c s then f s else g s := by
  intro s m
  simp only [hc, hf s m, hg s m]
  exact (apply_ite (State.setTxbuf m) (c s) (f s) (g s)).symm

/-- The read of RXS: whether the bytes are there, and which they are, does not depend on TXBUF. -/
theorem withBytes_ignoresTxbuf {go : List Byte → State → State} (h : ∀ bytes, IgnoresTxbuf (go bytes)) (need : Nat) :
    StepIgnoresTxbuf fun s => withBytes need s go := by
  intro s m
  rcases Nat.lt_or_ge s.rxs.cnt need with hlt | hge
  · exact ⟨_, withBytes_short go hlt, withBytes_short go hlt⟩
  · refine ⟨_, withBytes_enough go hge, ?_⟩
    rw [← h]
    exact withBytes_enough go hge

/-- AcquireWindow: whether RXS holds the Window, and which it is, does not depend on TXBUF. -/
theorem withWindow_ignoresTxbuf {go : Window → State → State} (h : ∀ w, IgnoresTxbuf (go w)) :
    StepIgnoresTxbuf fun s => withWindow s go := by
  intro s m
  rcases Nat.lt_or_ge s.rxs.cnt ((s.build.N - s.wfill) * Config.sampleBytes) with hlt | hge
  · exact ⟨_, withWindow_short go hlt, withWindow_short go hlt⟩
  · refine ⟨_, withWindow_enough go hge, ?_⟩
    rw [← h]
    exact withWindow_enough go hge

theorem scanSample_ignoresTxbuf (bytes : List Byte) : IgnoresTxbuf (scanSample bytes) :=
  .ite (fun _ _ => Iff.rfl) (fun _ _ => rfl) fun _ _ => rfl

theorem syncWindow_ignoresTxbuf (w : Window) : IgnoresTxbuf (syncWindow w) :=
  .ite (fun _ _ => Iff.rfl) (.ite (fun _ _ => Iff.rfl) (fun _ _ => rfl) fun _ _ => rfl) fun _ _ => rfl

theorem decodeWindow_ignoresTxbuf (w : Window) : IgnoresTxbuf (decodeWindow w) :=
  .ite (fun _ _ => Iff.rfl) (fun _ _ => rfl) (.ite (fun _ _ => Iff.rfl) (fun _ _ => rfl) fun _ _ => rfl)

theorem validateStep_ignoresTxbuf : IgnoresTxbuf validateStep :=
  .ite (fun _ _ => Iff.rfl) (fun _ _ => rfl) fun _ _ => rfl

theorem emitWindow_ignoresTxbuf : IgnoresTxbuf emitWindow :=
  .ite (fun _ _ => Iff.rfl) (fun _ _ => rfl) (.ite (fun _ _ => Iff.rfl) (fun _ _ => rfl) fun _ _ => rfl)

theorem receiveStep_ignoresTxbuf : StepIgnoresTxbuf receiveStep := by
  intro s m
  have hdecode := withWindow_ignoresTxbuf decodeWindow_ignoresTxbuf s m
  have hrxst : (s.setTxbuf m).rxst = s.rxst := rfl
  simp only [receiveStep, hrxst]
  cases s.rxst with
  | scanning => exact withBytes_ignoresTxbuf scanSample_ignoresTxbuf Config.sampleBytes s m
  | syncing => exact withWindow_ignoresTxbuf syncWindow_ignoresTxbuf s m
  | header => exact hdecode
  | payload => exact hdecode
  | validating => exact validateStep_ignoresTxbuf.next s m

theorem engineStep_ignoresTxbuf : StepIgnoresTxbuf engineStep := by
  intro s m
  have hbusy : (s.setTxbuf m).busy = s.busy := rfl
  have hcurop : (s.setTxbuf m).curop = s.curop := rfl
  simp only [engineStep, hbusy, hcurop]
  split
  · cases s.curop with
    | none => exact ⟨s, rfl, rfl⟩
    | transmit => exact emitWindow_ignoresTxbuf.next s m
    | receive => exact receiveStep_ignoresTxbuf s m
  · exact ⟨s, rfl, rfl⟩

/-- Settles O44: which micro-step the ENGINE takes does not depend on TXBUF, and none of them reads it. -/
theorem engineNeverReadsTxbuf : Obligations.EngineNeverReadsTxbuf := engineStep_ignoresTxbuf

/-! ### When RESULT changes (R114, 60_exceptions.md R705, R711) -/

/-- RESULT is the same in both states. -/
def SameResult (s t : State) : Prop := t.rcode = s.rcode ∧ t.rsize = s.rsize

/-- No command is in progress, as `finish` leaves it (60_exceptions.md R711). -/
def Finished (t : State) : Prop := t.busy = false ∧ t.curop = .none

/-- A CMD write to an idle LMC that was refused (60_exceptions.md R707, R709). -/
def RefusedAtIssue (s t : State) : Prop :=
  s.busy = false ∧ t.busy = false ∧ (t.rcode = .illegalCmd ∨ t.rcode = .notOperational)

theorem finished_finish (code : ResultCode) (size : Byte) (s : State) : Finished (finish code size s) := ⟨rfl, rfl⟩

/-- The bytes of RXS that the receiver's next micro-step needs (46_receiver.md R653, R654, R666). -/
def receiveNeed (s : State) : Nat :=
  match s.rxst with
  | .scanning => Config.sampleBytes
  | .syncing | .header | .payload => (s.build.N - s.wfill) * Config.sampleBytes
  | .validating => 0

/-- The state once ScanStep's Sample has been taken from RXS (46_receiver.md R653). -/
def afterSample (s : State) : State :=
  { s with rxs :=
      ⟨s.rxs.buf, (s.rxs.rd + Config.sampleBytes) % s.build.rxsBytes, s.rxs.cnt - Config.sampleBytes⟩ }

/-- The receiver's micro-step: NO_DATA_YET without the bytes it needs, and otherwise what RXST selects (46_receiver.md
R655, R662). -/
theorem receiveStep_cases (s : State) :
    (s.rxs.cnt < receiveNeed s ∧ receiveStep s = .next (finish .noDataYet 0 s))
      ∨ (receiveNeed s ≤ s.rxs.cnt ∧
        ((s.rxst = .scanning ∧ receiveStep s
            = .next (scanSample (s.rxs.oldest s.build.rxsBytes Config.sampleBytes) (afterSample s)))
          ∨ (s.rxst = .syncing ∧ receiveStep s = .next (syncWindow (nextWindow s) (afterWindow s)))
          ∨ ((s.rxst = .header ∨ s.rxst = .payload)
            ∧ receiveStep s = .next (decodeWindow (nextWindow s) (afterWindow s)))
          ∨ (s.rxst = .validating ∧ receiveStep s = .next (validateStep s)))) := by
  unfold receiveNeed receiveStep
  cases s.rxst with
  | scanning =>
    exact (Nat.lt_or_ge _ _).imp (fun h => ⟨h, withBytes_short _ h⟩) fun h => ⟨h, .inl ⟨rfl, withBytes_enough _ h⟩⟩
  | syncing =>
    exact (Nat.lt_or_ge _ _).imp (fun h => ⟨h, withWindow_short _ h⟩)
      fun h => ⟨h, .inr (.inl ⟨rfl, withWindow_enough _ h⟩)⟩
  | header | payload =>
    exact (Nat.lt_or_ge _ _).imp (fun h => ⟨h, withWindow_short _ h⟩)
      fun h => ⟨h, .inr (.inr (.inl ⟨by decide, withWindow_enough _ h⟩))⟩
  | validating => exact .inr ⟨Nat.zero_le _, .inr (.inr (.inr ⟨rfl, rfl⟩))⟩

theorem scanSample_sameResult (bytes : List Byte) (s : State) : SameResult s (scanSample bytes s) := by
  unfold scanSample
  dsimp only
  split <;> exact ⟨rfl, rfl⟩

theorem syncWindow_sameResult (w : Window) (s : State) : SameResult s (syncWindow w s) := by
  unfold syncWindow
  split
  · split <;> exact ⟨rfl, rfl⟩
  · exact ⟨rfl, rfl⟩

theorem decodeWindow_result (w : Window) (s : State) :
    SameResult s (decodeWindow w s) ∨ Finished (decodeWindow w s) := by
  unfold decodeWindow
  dsimp only
  split
  · exact .inr (finished_finish _ _ _)
  · split <;> exact .inl ⟨rfl, rfl⟩

theorem finished_validateStep (s : State) : Finished (validateStep s) := by
  unfold validateStep
  dsimp only
  split <;> exact finished_finish _ _ _

theorem emitWindow_result (s : State) : SameResult s (emitWindow s) ∨ Finished (emitWindow s) := by
  rcases emitWindow_cases s with ⟨-, h⟩ | ⟨-, -, h⟩ | ⟨-, -, h⟩ <;> rw [h]
  · exact .inl ⟨rfl, rfl⟩
  · exact .inl ⟨rfl, rfl⟩
  · exact .inr (finished_finish _ _ _)

theorem receiveStep_result {s t : State} (h : receiveStep s = .next t) : SameResult s t ∨ Finished t := by
  rcases receiveStep_cases s with ⟨-, hs⟩ | ⟨-, ⟨-, hs⟩ | ⟨-, hs⟩ | ⟨-, hs⟩ | ⟨-, hs⟩⟩ <;>
    obtain rfl := Host.Outcome.next.inj (hs.symm.trans h)
  · exact .inr (finished_finish _ _ _)
  · exact .inl (scanSample_sameResult _ (afterSample s))
  · exact .inl (syncWindow_sameResult _ (afterWindow s))
  · exact decodeWindow_result _ (afterWindow s)
  · exact .inr (finished_validateStep s)

/-- The ENGINE changes RESULT only where it finishes the command in progress (60_exceptions.md R711). -/
theorem engineStep_result {s t : State} (h : engineStep s = .next t) :
    SameResult s t ∨ (s.busy = true ∧ Finished t) := by
  rcases engineStep_cases s with ⟨-, hs⟩ | ⟨hbusy, -, hs⟩ | ⟨hbusy, -, hs⟩ <;> rw [hs] at h
  · obtain rfl := Host.Outcome.next.inj h
    exact .inl ⟨rfl, rfl⟩
  · obtain rfl := Host.Outcome.next.inj h
    exact (emitWindow_result s).imp_right fun hf => ⟨hbusy, hf⟩
  · exact (receiveStep_result h).imp_right fun hf => ⟨hbusy, hf⟩

/-- Of the twelve low registers CMD is the third only (10_state.md R110). -/
theorem eq_two_of_lowRegisters_cmd {i : Nat} (h : lowRegisters[i]? = some .cmd) : i = 2 := by
  obtain ⟨hi, -⟩ := List.getElem?_eq_some_iff.mp h
  exact (List.getElem?_inj hi (by decide)).mp (h.trans (rfl : some _ = lowRegisters[2]?))

/-- CMD is at offset 0x008 only, and reached by 32-bit transactions only (R110, R113). -/
theorem eq_of_busTarget_cmd {width : Nat} {off : Offset} (h : busTarget width off = some .cmd) :
    width = 32 ∧ off = 0x008#12 := by
  unfold busTarget registerAt at h
  dsimp only at h
  split_ifs at h with hwidth haligned hlow htxbuf hrxbuf
  · have hindex := eq_two_of_lowRegisters_cmd h
    refine ⟨hwidth, BitVec.eq_of_toNat_eq ?_⟩
    rw [BitVec.toNat_ofNat]
    omega
  · cases h
  · cases h

/-- A legal command changes RESULT only where it is refused: the issue itself does not (60_exceptions.md R705). -/
theorem acceptCommand_result {issue : State → State} {s : State} (hissue : SameResult s (issue s)) :
    SameResult s (acceptCommand issue s) ∨ RefusedAtIssue s (acceptCommand issue s) := by
  rcases acceptCommand_cases issue s with ⟨-, h⟩ | ⟨hidle, -, h⟩ | ⟨-, -, h⟩ <;> rw [h]
  · exact .inl ⟨rfl, rfl⟩
  · exact .inr ⟨hidle, hidle, .inr rfl⟩
  · exact .inl hissue

theorem exec_result {i : Instr} {s t : State} (h : exec i s = .next t) : SameResult s t ∨ RefusedAtIssue s t := by
  cases i with
  | transmit size =>
    obtain rfl := Host.Outcome.next.inj h
    exact acceptCommand_result ⟨rfl, rfl⟩
  | receive =>
    obtain rfl := Host.Outcome.next.inj h
    exact acceptCommand_result ⟨rfl, rfl⟩

theorem illegalCommand_result (s : State) :
    SameResult s (illegalCommand s) ∨ RefusedAtIssue s (illegalCommand s) := by
  unfold illegalCommand
  cases hbusy : s.busy with
  | true => exact .inl ⟨rfl, rfl⟩
  | false => exact .inr ⟨hbusy, hbusy, .inl rfl⟩

theorem cmdWrite_result {v : Word} {s t : State} (h : cmdWrite v s = .next t) :
    SameResult s t ∨ RefusedAtIssue s t := by
  unfold cmdWrite at h
  split at h
  · exact exec_result h
  · obtain rfl := Host.Outcome.next.inj h
    exact illegalCommand_result s

theorem ctrlWrite_sameResult (v : Word) (s : State) : SameResult s (ctrlWrite v s) := by
  unfold ctrlWrite
  split <;> exact ⟨rfl, rfl⟩

theorem writeRegister_sameResult {v : Word} {s t : State} {r : Register} (hr : r ≠ .cmd)
    (h : writeRegister v s r = .next t) : SameResult s t := by
  cases r with
  | cmd => exact absurd rfl hr
  | ctrl =>
    obtain rfl := Host.Outcome.next.inj h
    exact ctrlWrite_sameResult v s
  | status =>
    obtain rfl := Host.Outcome.next.inj h
    rw [statusWrite_eq]
    exact ⟨rfl, rfl⟩
  | _ =>
    obtain rfl := Host.Outcome.next.inj h
    exact ⟨rfl, rfl⟩

/-- A bus write changes RESULT only where it is a 32-bit write to CMD that is refused (20_memory.md R206). -/
theorem busWrite_result {width : Nat} {off : Offset} {v : Word} {s t : State} (h : busWrite width off v s = .next t) :
    SameResult s t ∨ (RefusedAtIssue s t ∧ width = 32 ∧ off = 0x008#12) := by
  cases htarget : busTarget width off with
  | none =>
    rw [busWrite, htarget] at h
    obtain rfl := Host.Outcome.next.inj h
    exact .inl ⟨rfl, rfl⟩
  | some r =>
    rw [busWrite_of_target htarget] at h
    by_cases hr : r = .cmd
    · subst hr
      exact (cmdWrite_result h).imp_right fun hrefused => ⟨hrefused, eq_of_busTarget_cmd htarget⟩
    · exact .inl (writeRegister_sameResult hr h)

theorem busRead_sameResult (width : Nat) (off : Offset) (s : State) : SameResult s (busRead width off s) := by
  unfold busRead
  split <;> exact ⟨rfl, rfl⟩

theorem audioIn_sameResult (data : List Byte) (s : State) : SameResult s (audioIn data s) := by
  unfold audioIn
  split
  · split <;> exact ⟨rfl, rfl⟩
  · exact ⟨rfl, rfl⟩

theorem audioOut_sameResult {length : Nat} {s t : State} (h : audioOut length s = .next t) : SameResult s t := by
  unfold audioOut at h
  rw [Stream.read_of_le (Nat.min_le_right _ _)] at h
  split_ifs at h <;>
    (obtain rfl := Host.Outcome.next.inj h
     exact ⟨rfl, rfl⟩)

/-- One turn changes RESULT only as a finish by the ENGINE, a refused write to CMD, or a reset. -/
theorem perform_result {a : Action} {s t : State} (h : perform a s = .next t) :
    SameResult s t ∨ (s.busy = true ∧ Finished t)
      ∨ (RefusedAtIssue s t ∧ ∃ v, a = .busWrite 32 0x008#12 v) ∨ ∃ ok, a = .reset ok := by
  cases a with
  | busRead width off =>
    obtain rfl := Host.Outcome.next.inj h
    exact .inl (busRead_sameResult width off s)
  | busWrite width off v =>
    refine (busWrite_result h).imp_right ?_
    rintro ⟨hrefused, rfl, rfl⟩
    exact .inr (.inl ⟨hrefused, v, rfl⟩)
  | engine => exact (engineStep_result h).imp_right .inl
  | audioIn data =>
    obtain rfl := Host.Outcome.next.inj h
    exact .inl (audioIn_sameResult data s)
  | audioOut length => exact .inl (audioOut_sameResult h)
  | reset ok => exact .inr (.inr (.inr ⟨ok, rfl⟩))

/-- Settles O55: every turn but a finish, a refused write to CMD and a reset keeps RESULT. -/
theorem resultChangesOnlyAtFinishRefusalOrReset : Obligations.ResultChangesOnlyAtFinishRefusalOrReset := by
  intro s t hstep hchanged
  have hdiff : ¬ SameResult s t := fun ⟨hcode, hsize⟩ => hchanged.elim (· hcode) (· hsize)
  cases hlegal : s.build.legal with
  | false => rw [step_of_illegal hlegal] at hstep; cases hstep
  | true =>
    rw [step_of_legal hlegal] at hstep
    rcases takeTurn_cases s with ⟨-, hturn⟩ | ⟨a, rest, hschedule, hturn⟩ <;> rw [hturn] at hstep
    · exact .inl ((engineStep_result hstep).resolve_left hdiff)
    · rcases (perform_result hstep).resolve_left hdiff with hfinish | ⟨hrefused, v, rfl⟩ | ⟨ok, rfl⟩
      · exact .inl hfinish
      · obtain ⟨hidle, hstill, hcode⟩ := hrefused
        exact .inr (.inl ⟨hidle, hstill, hcode, v, rest, hschedule⟩)
      · exact .inr (.inr ⟨ok, rest, hschedule⟩)

end Sys2Proof.Machine

/-! The statements of 20_memory.md: a BusRead has no side effect (R208), and the words of TXBUF and RXBUF (R211). -/

namespace Sys2Proof.Machine

/-! ### What a BusRead gives back, and what it leaves (R206, R208) -/

/-- The data of a BusRead: the register's value, and 0 where it raises BUSERR (20_memory.md R206). -/
def busData (width : Nat) (off : Offset) (s : State) : Word :=
  match busTarget width off with
  | some r => readRegister s r
  | none => 0

/-- A BusRead gives back its data and otherwise touches the fault log only. -/
theorem busRead_eq (width : Nat) (off : Offset) (s : State) :
    busRead width off s = { s with
      replies := s.replies ++ [.readData off (busData width off s)], faultLog := (busRead width off s).faultLog } := by
  unfold busRead busData
  cases busTarget width off with
  | some r => rfl
  | none => rfl

/-- No register shows what was given back or the fault log (10_state.md R110). -/
theorem readRegister_ignoresRecords (s : State) (replies : List Reply) (log : List FaultRecord) (r : Register) :
    readRegister { s with replies := replies, faultLog := log } r = readRegister s r := by
  cases r <;> rfl

/-- A BusRead does not change the data of another; for the same offset, reads are idempotent (20_memory.md R208). -/
theorem busData_busRead (width width' : Nat) (off off' : Offset) (s : State) :
    busData width' off' (busRead width off s) = busData width' off' s := by
  rw [busRead_eq]
  unfold busData
  cases busTarget width' off' with
  | some r => exact readRegister_ignoresRecords s _ _ r
  | none => rfl

theorem busRead_givesBack_busData (width : Nat) (off : Offset) (s : State) :
    (busRead width off s).replies = s.replies ++ [.readData off (busData width off s)] := by
  rw [busRead_eq]

/-- Settles O16: a read only appends to the replies and to the fault log, and no register shows either. -/
theorem busReadHasNoSideEffect : Obligations.BusReadHasNoSideEffect := by
  intro s width off
  have honce := busRead_givesBack_busData width off s
  refine ⟨?_, busData width off s, honce, ?_⟩
  · rw [honce]
    exact busRead_eq width off s
  · rw [busRead_givesBack_busData, busData_busRead, honce, List.append_assoc, List.singleton_append]

/-! ### The words of TXBUF and RXBUF (R211, 10_state.md R119, R120) -/

/-- The offset of a word of TXBUF or RXBUF fits the 12 bits of an offset. -/
theorem toNat_wordOffset {base j : Nat} (hbase : base ≤ 0x200) (hj : j < 64) :
    (BitVec.ofNat 12 (base + 4 * j)).toNat = base + 4 * j := by
  rw [BitVec.toNat_ofNat]
  omega

theorem busTarget_txbuf {j : Nat} (hj : j < 64) : busTarget 32 (BitVec.ofNat 12 (0x100 + 4 * j)) = some (.txbuf j) := by
  have haligned : (0x100 + 4 * j) % 4 = 0 := by omega
  have hlow : ¬ 0x100 + 4 * j < 0x030 := by omega
  have htxbuf : 0x100 ≤ 0x100 + 4 * j ∧ 0x100 + 4 * j < 0x200 := by omega
  have hindex : (0x100 + 4 * j - 0x100) / 4 = j := by omega
  rw [busTarget, if_pos rfl, registerAt, toNat_wordOffset (by decide) hj]
  simp only [haligned, hlow, htxbuf, hindex, ne_eq, not_true_eq_false, and_self, if_true, if_false]

theorem busTarget_rxbuf {j : Nat} (hj : j < 64) : busTarget 32 (BitVec.ofNat 12 (0x200 + 4 * j)) = some (.rxbuf j) := by
  have haligned : (0x200 + 4 * j) % 4 = 0 := by omega
  have hlow : ¬ 0x200 + 4 * j < 0x030 := by omega
  have htxbuf : ¬ (0x100 ≤ 0x200 + 4 * j ∧ 0x200 + 4 * j < 0x200) := by omega
  have hrxbuf : 0x200 ≤ 0x200 + 4 * j ∧ 0x200 + 4 * j < 0x300 := by omega
  have hindex : (0x200 + 4 * j - 0x200) / 4 = j := by omega
  rw [busTarget, if_pos rfl, registerAt, toNat_wordOffset (by decide) hj]
  simp only [haligned, hlow, htxbuf, hrxbuf, hindex, ne_eq, not_true_eq_false, and_self, if_true, if_false]

/-- Byte `i` of a bus word is byte `4j + i` of the buffer (R211). -/
theorem extractLsb'_busWord (byteAt : Nat → Byte) (j : Nat) {i : Nat} (hi : i < 4) :
    (busWord byteAt j).extractLsb' (8 * i) 8 = byteAt (4 * j + i) := by
  unfold busWord
  interval_cases i <;>
    simp (disch := decide) [-Nat.reduceAdd, BitVec.extractLsb'_append_eq_of_le,
      BitVec.extractLsb'_append_eq_of_add_le]

/-- A stored word puts its byte `i` at index `4j + i` (R211). -/
theorem read_storeWord_of_lt {m : Memory} (h : m.wf = true) (j : Nat) (v : Word) {i : Nat} (hi : i < 4) :
    (storeWord j v m).read (4 * j + i) = busByte v i := by
  rw [storeWord, Memory.read_writeAll h, if_pos ⟨Nat.le_add_right _ _, Nat.add_lt_add_left hi _⟩,
    Nat.add_sub_cancel_left]
  interval_cases i <;> rfl

/-- A stored word keeps every byte outside its four indexes (R211). -/
theorem read_storeWord_of_outside {m : Memory} (h : m.wf = true) {j : Nat} (v : Word) {a : Nat}
    (ha : a < 4 * j ∨ 4 * j + 4 ≤ a) : (storeWord j v m).read a = m.read a := by
  have houtside : ¬ (4 * j ≤ a ∧ a < 4 * j + 4) := by omega
  rw [storeWord, Memory.read_writeAll h]
  exact if_neg houtside

/-- Settles O18: the offset names the word's register, a write stores its four bytes, and a read is the `busWord` over
TXBUF or over the view of FB that RXBUF is (`rxbufByte`). -/
theorem bufferWordsMoveFourBytes : Obligations.BufferWordsMoveFourBytes := by
  intro s j v hj
  refine ⟨fun hwf => ?_, ?_, ?_, ?_⟩
  · exact ⟨_, busWrite_of_target (busTarget_txbuf hj) v s, rfl, storeWord_wf hwf j v,
      fun _ hi => read_storeWord_of_lt hwf j v hi, fun _ ha => read_storeWord_of_outside hwf v ha⟩
  · exact ⟨_, busRead_replies (busTarget_txbuf hj) s, fun _ hi => extractLsb'_busWord _ j hi⟩
  · exact ⟨_, busRead_replies (busTarget_rxbuf hj) s, fun _ hi => extractLsb'_busWord _ j hi⟩
  · exact busWrite_of_target (busTarget_rxbuf hj) v s

end Sys2Proof.Machine

/-! The statements of 30_encoding.md: the CMD word (R320 to R323), and the signature's Windows (R306). -/

namespace Sys2Proof

/-! ### The four fields of a CMD word, `0000000000000000 SSSSSSSS 0000 OOOO` (R320) -/

/-- The reserved bits 31:16 (30_encoding.md R320). -/
def reservedHigh (w : Word) : BitVec 16 := w.extractLsb' 16 16

/-- The reserved bits 7:4 (30_encoding.md R320). -/
def reservedLow (w : Word) : BitVec 4 := w.extractLsb' 4 4

theorem append_wordFields (w : Word) : reservedHigh w ++ sizeField w ++ reservedLow w ++ opField w = w := by
  simp only [reservedHigh, sizeField, reservedLow, opField, BitVec.extractLsb'_append_extractLsb'_eq_extractLsb',
    BitVec.extractLsb'_eq_self]

/-- The fields cover the word: no bit lies outside them. -/
theorem word_eq_iff_fields {w v : Word} : w = v ↔
    reservedHigh w = reservedHigh v ∧ sizeField w = sizeField v ∧ reservedLow w = reservedLow v
      ∧ opField w = opField v := by
  refine ⟨fun h => h ▸ ⟨rfl, rfl, rfl, rfl⟩, fun ⟨hhigh, hsize, hlow, hop⟩ => ?_⟩
  rw [← append_wordFields w, hhigh, hsize, hlow, hop, append_wordFields]

/-- A mask acts on each field alone, so a masked comparison is one condition per field. -/
theorem and_mask_eq_iff {w mask pattern : Word} : w &&& mask = pattern ↔
    reservedHigh w &&& reservedHigh mask = reservedHigh pattern
      ∧ sizeField w &&& sizeField mask = sizeField pattern
      ∧ reservedLow w &&& reservedLow mask = reservedLow pattern
      ∧ opField w &&& opField mask = opField pattern := by
  simp only [word_eq_iff_fields, reservedHigh, sizeField, reservedLow, opField, BitVec.extractLsb'_and]

/-- R320's reserved bits are the two reserved fields. -/
theorem and_reservedMask_eq_zero_iff {w : Word} :
    w &&& reservedMask = 0#32 ↔ reservedHigh w = 0#16 ∧ reservedLow w = 0#4 := by
  rw [and_mask_eq_iff]
  change reservedHigh w &&& BitVec.allOnes 16 = 0#16 ∧ sizeField w &&& 0#8 = 0#8
    ∧ reservedLow w &&& BitVec.allOnes 4 = 0#4 ∧ opField w &&& 0#4 = 0#4 ↔ _
  simp only [BitVec.and_allOnes, BitVec.and_zero, true_and, and_true]

/-! ### The encoder and the decoder by their fields (R321, R322) -/

theorem fields_encode_transmit (size : Nat) :
    reservedHigh (encode (.transmit size)) = 0#16 ∧ sizeField (encode (.transmit size)) = BitVec.ofNat 8 size
      ∧ reservedLow (encode (.transmit size)) = 0#4 ∧ opField (encode (.transmit size)) = opTransmit := by
  simp (disch := decide) [-Nat.reduceAdd, encode, reservedHigh, reservedLow, sizeField, opField,
    BitVec.extractLsb'_append_eq_of_le, BitVec.extractLsb'_append_eq_of_add_le]

theorem encode_transmit_eq_iff {size : Nat} {w : Word} : encode (.transmit size) = w ↔
    w &&& reservedMask = 0#32 ∧ opField w = opTransmit ∧ sizeField w = BitVec.ofNat 8 size := by
  obtain ⟨hhigh, hsize, hlow, hop⟩ := fields_encode_transmit size
  rw [eq_comm, word_eq_iff_fields, and_reservedMask_eq_zero_iff, hhigh, hsize, hlow, hop]
  tauto

theorem encode_receive_eq_iff {w : Word} : encode .receive = w ↔
    w &&& reservedMask = 0#32 ∧ opField w = opReceive ∧ sizeField w = 0#8 := by
  rw [eq_comm, word_eq_iff_fields, and_reservedMask_eq_zero_iff]
  change reservedHigh w = 0#16 ∧ sizeField w = 0#8 ∧ reservedLow w = 0#4 ∧ opField w = opReceive ↔ _
  tauto

/-- Only the branch of OP 1 gives a TRANSMIT. -/
theorem decode_eq_transmit_iff {w : Word} {size : Nat} : decode w = .ok (.transmit size) ↔
    w &&& reservedMask = 0#32 ∧ opField w = opTransmit ∧ (sizeField w).toNat = size := by
  unfold decode
  split_ifs with hreserved htransmit
  · simp [hreserved]
  · simp [not_not.mp hreserved, htransmit]
  all_goals simp [htransmit]

/-- Only the branch of OP 2 with SIZE 0 gives RECEIVE. -/
theorem decode_eq_receive_iff {w : Word} : decode w = .ok .receive ↔
    w &&& reservedMask = 0#32 ∧ opField w = opReceive ∧ sizeField w = 0#8 := by
  have hdistinct : opTransmit ≠ opReceive := by decide
  unfold decode
  split_ifs with hreserved htransmit hreceive hsize
  · simp [hreserved]
  · simp [htransmit, hdistinct]
  · simpa [hreceive, hsize] using hreserved
  · simp [hsize]
  · simp [hreceive]

/-- SIZE holds every size a well-formed TRANSMIT has, and no other number has that SIZE (R322). -/
theorem toNat_eq_iff_le_and_eq_ofNat {field : Byte} {size : Nat} :
    field.toNat = size ↔ size ≤ 255 ∧ field = BitVec.ofNat 8 size := by
  bv_omega

/-- Settles O1: for each command, the decoder's conditions on the fields are those under which the encoder gives the
word; SIZE tells two sizes apart because a well-formed one fits its 8 bits. -/
theorem decodeAndEncodeAgree : Obligations.DecodeAndEncodeAgree := by
  intro w i
  cases i with
  | transmit size =>
    rw [decode_eq_transmit_iff, encode_transmit_eq_iff, toNat_eq_iff_le_and_eq_ofNat, Instr.wf, decide_eq_true_iff]
    tauto
  | receive =>
    rw [decode_eq_receive_iff, encode_receive_eq_iff]
    exact (and_iff_right rfl).symm

/-! ### Legal words and the opcode map (R321, R323) -/

theorem legal_iff_transmit_or_receive {w : Word} :
    legal w = true ↔ (∃ size, decode w = .ok (.transmit size)) ∨ decode w = .ok .receive := by
  rw [legal_iff]
  constructor
  · rintro ⟨size | _, h⟩
    · exact .inl ⟨size, h⟩
    · exact .inr h
  · rintro (⟨size, h⟩ | h) <;> exact ⟨_, h⟩

theorem exists_decode_eq_transmit_iff {w : Word} : (∃ size, decode w = .ok (.transmit size)) ↔
    w &&& reservedMask = 0#32 ∧ opField w = opTransmit := by
  simp only [decode_eq_transmit_iff, exists_and_left, exists_eq', and_true]

/-- Settles O4: the two kinds of legal word, by the conditions under which each decodes. -/
theorem legalWordsAreTheRulesFormula : Obligations.LegalWordsAreTheRulesFormula := by
  intro w
  rw [legal_iff_transmit_or_receive, exists_decode_eq_transmit_iff, decode_eq_receive_iff, ← and_or_left]
  rfl

/-- The TRANSMIT row leaves SIZE out of its mask. -/
theorem matches_transmitRow_iff {w : Word} :
    w &&& 0xFFFF00FF#32 = 0x00000001#32 ↔ ∃ size, decode w = .ok (.transmit size) := by
  rw [exists_decode_eq_transmit_iff, and_reservedMask_eq_zero_iff, and_mask_eq_iff]
  change reservedHigh w &&& BitVec.allOnes 16 = 0#16 ∧ sizeField w &&& 0#8 = 0#8
    ∧ reservedLow w &&& BitVec.allOnes 4 = 0#4 ∧ opField w &&& BitVec.allOnes 4 = opTransmit ↔ _
  simp only [BitVec.and_allOnes, BitVec.and_zero, true_and, and_assoc]

/-- The RECEIVE row masks nothing out, so it is the one word `encode .receive`. -/
theorem matches_receiveRow_iff {w : Word} :
    w &&& 0xFFFFFFFF#32 = 0x00000002#32 ↔ decode w = .ok .receive := by
  rw [decode_eq_receive_iff, ← encode_receive_eq_iff, eq_comm (a := encode .receive)]
  change w &&& BitVec.allOnes 32 = encode .receive ↔ _
  rw [BitVec.and_allOnes]

/-- Settles O2: each row matches exactly the words that decode to its command, so at most one row matches. -/
theorem opcodeRowsAreTheDecoder : Obligations.OpcodeRowsAreTheDecoder := by
  refine ⟨fun w size h => ?_, fun w h => ?_, fun w h => ?_⟩
  · have htransmit := matches_transmitRow_iff.mpr ⟨size, h⟩
    have hreceive : ¬ w &&& 0xFFFFFFFF#32 = 0x00000002#32 := by simp [matches_receiveRow_iff, h]
    simp [matchingRows, opcodeTable, htransmit, hreceive]
  · have htransmit : ¬ w &&& 0xFFFF00FF#32 = 0x00000001#32 := by simp [matches_transmitRow_iff, h]
    have hreceive := matches_receiveRow_iff.mpr h
    simp [matchingRows, opcodeTable, htransmit, hreceive]
  · rw [← Bool.not_eq_true, legal_iff_transmit_or_receive, ← matches_transmitRow_iff, ← matches_receiveRow_iff,
      not_or] at h
    simp [matchingRows, opcodeTable, h]

/-- Settles O3: nine closed evaluations of the decoder. -/
theorem writtenOutWordsDecode : Obligations.WrittenOutWordsDecode := by
  unfold Obligations.WrittenOutWordsDecode
  decide

end Sys2Proof

namespace Sys2Proof.Machine

/-! ### The signature's Windows (R304, R306) -/

/-- A Frame's Multibytes hold its header and payload (30_encoding.md R305). -/
theorem header_add_payload_le_frame {b : Build} (hF : 1 ≤ b.F) (size : Nat) :
    b.headerBytes + size ≤ b.multibytes size * b.F := by
  have h := Nat.lt_div_mul_add (a := b.headerBytes + size + b.F - 1) hF
  rw [Build.multibytes]
  omega

theorem getD_buildFrame {b : Build} {p : List Byte} {size i : Nat} (hi : i < b.multibytes size * b.F) :
    (buildFrame b p size).getD i 0 = frameByte b p size (hash16 b.digest (p.take size)) i := by
  rw [List.getD_eq_getElem _ _ (by simpa using hi)]
  simp [buildFrame]

/-- The first F bytes of a Frame are the signature (30_encoding.md R304). -/
theorem read_signature_of_buildFrame {b : Build} {p : List Byte} {size c : Nat} (hc : c < b.F) :
    (Memory.ofBytes (buildFrame b p size)).read c = 0xFF#8 := by
  have hfits := header_add_payload_le_frame (b := b) (by omega) size
  rw [Build.headerBytes] at hfits
  rw [Memory.read_ofBytes, getD_buildFrame (by omega), frameByte, if_pos hc]
  rfl

/-- Settles O40: the Windows before the eighth carry the bits of Multibyte 0, which is the signature. -/
theorem signatureDrivesEveryCarrier : Obligations.SignatureDrivesEveryCarrier := by
  intro b p size idx _ hidx
  have hfirst : idx / 8 = 0 := Nat.div_eq_of_lt hidx
  have hones : (0xFF#8).getLsbD (idx % 8) = true := by interval_cases idx <;> rfl
  refine List.eq_replicate_iff.mpr ⟨length_windowBits .., fun bit hbit => ?_⟩
  rw [windowBits, List.mem_map] at hbit
  obtain ⟨c, hc, rfl⟩ := hbit
  rw [hfirst, Nat.zero_mul, Nat.zero_add, read_signature_of_buildFrame (List.mem_range.mp hc), hones]

end Sys2Proof.Machine

/-! The statements of 41_sample_stream.md, and the machine's invariant: what a turn can lead to, said once, so that each
claim about every step is a case analysis of it. -/

namespace Sys2Proof.Machine

/-! ### The contents of a stream (R411, R412, R416) -/

/-- The stream without its oldest `n` bytes, as a read and an overflow leave it (41_sample_stream.md R411, R412). -/
def Stream.advance (cap n : Nat) (s : Stream) : Stream := ⟨s.buf, (s.rd + n) % cap, s.cnt - n⟩

/-- The stream with bytes stored behind its newest (41_sample_stream.md R411). -/
def Stream.append (cap : Nat) (data : List Byte) (s : Stream) : Stream :=
  ⟨storeCircular cap (s.rd + s.cnt) data s.buf, s.rd, s.cnt + data.length⟩

/-- StreamWrite: of the chunk the newest `cap` bytes are kept, the overflow is discarded, they are appended (R411). -/
theorem Stream.write_eq (cap : Nat) (data : List Byte) (s : Stream) : s.write cap data =
    (s.advance cap (overflowDiscard cap s.cnt (data.drop (data.length - cap)).length)).append cap
      (data.drop (data.length - cap)) := rfl

/-- StreamRead where the bytes are there: the oldest ones, and the stream without them (R412). -/
theorem Stream.read_eq {cap n : Nat} {s : Stream} (h : n ≤ s.cnt) :
    s.read cap n = some ((s.contents cap).take n, s.advance cap n) := by
  rw [Stream.read_of_le h, Stream.oldest_eq_take h, Stream.advance]

/-- Fewer bytes apart than the store holds, two positions of the circular store differ. -/
theorem mod_ne_of_lt_add {cap p i j : Nat} (hij : i < j) (hj : j < i + cap) : (p + i) % cap ≠ (p + j) % cap := by
  intro heq
  have hdiff := Nat.sub_mod_eq_zero_of_mod_eq heq.symm
  rw [Nat.add_sub_add_left, Nat.mod_eq_of_lt (by omega)] at hdiff
  omega

theorem Stream.contents_advance (cap n : Nat) (s : Stream) :
    (s.advance cap n).contents cap = (s.contents cap).drop n := by
  apply List.ext_getElem (by simp [Stream.advance])
  intro i _ _
  simp only [Stream.contents, Stream.oldest, Stream.advance, List.getElem_map, List.getElem_range, List.getElem_drop,
    Nat.mod_add_mod, Nat.add_assoc]

/-- Where there is room, the bytes stored keep clear of the bytes the stream holds. -/
theorem Stream.contents_append {cap : Nat} {s : Stream} {data : List Byte} (hwf : s.buf.wf = true)
    (hroom : s.cnt + data.length ≤ cap) : (s.append cap data).contents cap = s.contents cap ++ data := by
  apply List.ext_getElem (by simp [Stream.append])
  intro i hi _
  simp only [Stream.length_contents, Stream.append] at hi
  simp only [Stream.contents, Stream.oldest, Stream.append, List.getElem_map, List.getElem_range, List.getElem_append,
    List.length_map, List.length_range]
  split
  case isTrue hold =>
    refine read_storeCircular_other hwf fun j hj => ?_
    rw [Nat.add_assoc]
    exact mod_ne_of_lt_add (by omega) (by omega)
  case isFalse hnew =>
    have hpos : s.rd + i = s.rd + s.cnt + (i - s.cnt) := by omega
    rw [hpos, read_storeCircular hwf (by omega) (by omega)]
    exact List.getD_eq_getElem _ _ _

/-- StreamWrite keeps the newest `cap` bytes in order: of the old ones it discards the overflow, of a chunk larger than
the store all but the last `cap` (R411). -/
theorem StreamInv.contents_write {cap : Nat} {s : Stream} {data : List Byte} (h : StreamInv cap s) (hcap : cap % 2 = 0)
    (hdata : data.length % 2 = 0) :
    (s.write cap data).contents cap = (s.contents cap ++ data).drop (s.cnt + data.length - cap) := by
  obtain ⟨hle, heven, -, -, hwf, -⟩ := h
  simp only [Config.sampleBytes] at heven
  have hlen : (data.drop (data.length - cap)).length = min data.length cap := by rw [List.length_drop]; omega
  have hdiscard := overflowDiscard_eq hcap heven (show min data.length cap % 2 = 0 by omega) hle
  rw [Stream.write_eq, Stream.contents_append (s := s.advance cap _) hwf
      (by simp only [Stream.advance, hlen, hdiscard]; omega),
    Stream.contents_advance, hlen, hdiscard, List.drop_append, Stream.length_contents]
  rcases Nat.le_total data.length cap with hfit | hlarge
  · have hall : data.length - cap = 0 := by omega
    have hnone : s.cnt + data.length - cap - s.cnt = 0 := by omega
    have hover : min data.length cap - (cap - s.cnt) = s.cnt + data.length - cap := by omega
    rw [hall, hnone, hover]
  · have hskip : s.cnt + data.length - cap - s.cnt = data.length - cap := by omega
    rw [hskip, List.drop_of_length_le (l := s.contents cap) (by simp; omega),
      List.drop_of_length_le (l := s.contents cap) (by simp; omega)]

/-- Settles O21: what a StreamWrite and a StreamRead do to the contents; a stream that discards is full because its
count is the length of its contents. -/
theorem streamsKeepTheNewestInOrder : Obligations.StreamsKeepTheNewestInOrder := by
  intro cap s h hcap
  refine ⟨fun data hdata => ?_, fun n hn => ?_, fun n hn => Stream.read_of_lt hn⟩
  · have hwrite := h.contents_write hcap hdata
    refine ⟨hwrite, fun hover => ?_⟩
    have hlen := congrArg List.length hwrite
    simp only [Stream.length_contents, List.length_drop, List.length_append] at hlen
    omega
  · exact ⟨_, Stream.read_eq hn, Stream.contents_advance cap n s, rfl⟩

/-! ### What a turn can lead to -/

/-- The Sample that ScanStep reads (46_receiver.md R653). -/
def scannedSample (s : State) : Sample :=
  sampleOfBytes ((s.rxs.oldest s.build.rxsBytes Config.sampleBytes).getD 0 0)
    ((s.rxs.oldest s.build.rxsBytes Config.sampleBytes).getD 1 0)

/-- The state once the Window read has put its Multibit into FB (46_receiver.md R665). -/
def afterMultibit (s : State) : State :=
  { afterWindow s with
    fb := orMultibit s.rwidx.toNat s.rcvd (decodeMultibit s.build (nextWindow s) s.cal) s.fb }

/-- What a micro-step of RECEIVE that has the bytes it needs can lead to (46_receiver.md R653 to R666). -/
inductive ReceiveTo (s : State) : State → Prop where
  | scan : s.rxst = .scanning → triggers s.thr (scannedSample s) = false → ReceiveTo s (afterSample s)
  | trigger : s.rxst = .scanning → triggers s.thr (scannedSample s) = true →
      ReceiveTo s (triggerAction (scannedSample s) (afterSample s))
  | nextSignature : s.rxst = .syncing → sigCheck s.build s.nfSyncEn (nextWindow s) = true → s.rwidx.toNat < 7 →
      ReceiveTo s { afterWindow s with rwidx := s.rwidx + 1 }
  | synchronized : s.rxst = .syncing → sigCheck s.build s.nfSyncEn (nextWindow s) = true → ¬ s.rwidx.toNat < 7 →
      ReceiveTo s (synchronized (nextWindow s) (afterWindow s))
  | reject : s.rxst = .syncing → sigCheck s.build s.nfSyncEn (nextWindow s) = false →
      ReceiveTo s (rejectSignature (afterWindow s))
  | abort : s.rxst = .header ∨ s.rxst = .payload → (s.nfDecEn && !noiseOk s.build (nextWindow s)) = true →
      ReceiveTo s (abortFrame (afterWindow s))
  | nextBit : s.rxst = .header ∨ s.rxst = .payload → s.rwidx.toNat < 7 →
      ReceiveTo s { afterMultibit s with rwidx := s.rwidx + 1 }
  | complete : s.rxst = .header ∨ s.rxst = .payload → ¬ s.rwidx.toNat < 7 →
      ReceiveTo s (completeMultibyte (afterMultibit s))
  | deliver : s.rxst = .validating →
      ReceiveTo s (finish .delivered (receivedSize s) { s with rxst := .scanning, rwidx := 0 })
  | mismatch : s.rxst = .validating →
      ReceiveTo s (finish .digestMismatch 0 { s with rxst := .scanning, rwidx := 0 })

/-- The Window that EmitWindow sends (45_transmitter.md R603). -/
def sentWindow (s : State) : Window := frameWindow s.build s.tfb s.tnw s.tidx

/-- What a turn of any agent can lead to (00_scope.md R7, R8). -/
inductive TurnTo (s : State) : State → Prop where
  | pass : TurnTo s s
  | record (replies : List Reply) (log : List FaultRecord) : TurnTo s { s with replies := replies, faultLog := log }
  | overlap (b : Bool) : TurnTo s { s with overlap := b }
  | policies (v : Word) : s.busy = false → TurnTo s { s with
      nfSyncEn := v.getLsbD 0, nfDecEn := v.getLsbD 1, adaptEn := v.getLsbD 2, thr := baseThreshold s.build }
  | storeWord (j : Nat) (v : Word) : j < 64 → TurnTo s { s with txbuf := storeWord j v s.txbuf }
  | refuse (code : ResultCode) : s.busy = false → TurnTo s (refuseCommand code s)
  | issueTransmit (size : Nat) : s.busy = false → s.operational = true → size ≤ 255 → TurnTo s (issueTransmit size s)
  | issueReceive : s.busy = false → s.operational = true → TurnTo s (issueReceive s)
  | audioIn (data : List Byte) : s.operational = true → data.length % 2 = 0 →
      TurnTo s { s with rxs := s.rxs.write s.build.rxsBytes data }
  | audioOut (n : Nat) (r : Reply) : s.operational = true → n % 2 = 0 → TurnTo s
      (giveBack r { s with txs := s.txs.advance s.build.txsBytes (min n s.txs.cnt) })
  | reset (ok : Bool) : TurnTo s (resetEvent ok s)
  | emit : s.busy = true → s.tidx < s.tnw → TurnTo s { s with
      txs := s.txs.write s.build.txsBytes (bytesOfWindow (sentWindow s)), tidx := s.tidx + 1 }
  | emitLast : s.busy = true → s.tidx = s.tnw → TurnTo s (finish .txDone 0 { s with
      txs := s.txs.write s.build.txsBytes (bytesOfWindow (sentWindow s)), tidx := s.tidx + 1 })
  | noDataYet : s.busy = true → TurnTo s (finish .noDataYet 0 s)
  | receive {t : State} : s.busy = true → receiveNeed s ≤ s.rxs.cnt → ReceiveTo s t → TurnTo s t

theorem scanSample_receiveTo {s : State} (h : s.rxst = .scanning) :
    ReceiveTo s (scanSample (s.rxs.oldest s.build.rxsBytes Config.sampleBytes) (afterSample s)) := by
  unfold scanSample
  dsimp only
  split
  case isTrue ht => exact .trigger h ht
  case isFalse ht => exact .scan h (eq_false_of_ne_true ht)

theorem syncWindow_receiveTo {s : State} (h : s.rxst = .syncing) :
    ReceiveTo s (syncWindow (nextWindow s) (afterWindow s)) := by
  unfold syncWindow
  split
  case isTrue hpass =>
    split
    case isTrue hlt => exact .nextSignature h hpass hlt
    case isFalse hlast => exact .synchronized h hpass hlast
  case isFalse hfail => exact .reject h (eq_false_of_ne_true hfail)

theorem decodeWindow_receiveTo {s : State} (h : s.rxst = .header ∨ s.rxst = .payload) :
    ReceiveTo s (decodeWindow (nextWindow s) (afterWindow s)) := by
  unfold decodeWindow
  dsimp only
  split
  case isTrue hnoisy => exact .abort h hnoisy
  case isFalse =>
    split
    case isTrue hlt => exact .nextBit h hlt
    case isFalse hlast => exact .complete h hlast

theorem validateStep_receiveTo {s : State} (h : s.rxst = .validating) : ReceiveTo s (validateStep s) := by
  unfold validateStep
  dsimp only
  split
  · exact .deliver h
  · exact .mismatch h

theorem receiveStep_turnTo {s : State} (hbusy : s.busy = true) : ∃ t, receiveStep s = .next t ∧ TurnTo s t := by
  rcases receiveStep_cases s with ⟨-, h⟩ | ⟨hneed, ⟨hst, h⟩ | ⟨hst, h⟩ | ⟨hst, h⟩ | ⟨hst, h⟩⟩
  · exact ⟨_, h, .noDataYet hbusy⟩
  · exact ⟨_, h, .receive hbusy hneed (scanSample_receiveTo hst)⟩
  · exact ⟨_, h, .receive hbusy hneed (syncWindow_receiveTo hst)⟩
  · exact ⟨_, h, .receive hbusy hneed (decodeWindow_receiveTo hst)⟩
  · exact ⟨_, h, .receive hbusy hneed (validateStep_receiveTo hst)⟩

theorem engineStep_turnTo (s : State) : ∃ t, engineStep s = .next t ∧ TurnTo s t := by
  rcases engineStep_cases s with ⟨-, h⟩ | ⟨hbusy, -, h⟩ | ⟨hbusy, -, h⟩
  · exact ⟨s, h, .pass⟩
  · refine ⟨_, h, ?_⟩
    rcases emitWindow_cases s with ⟨-, h⟩ | ⟨hlt, -, h⟩ | ⟨hlast, -, h⟩ <;> rw [h]
    · exact .pass
    · exact .emit hbusy hlt
    · exact .emitLast hbusy hlast
  · rw [h]
    exact receiveStep_turnTo hbusy

theorem busRead_turnTo (width : Nat) (off : Offset) (s : State) : TurnTo s (busRead width off s) := by
  rw [busRead_eq]
  exact .record _ _

theorem acceptCommand_turnTo {issue : State → State} {s : State}
    (h : s.busy = false → s.operational = true → TurnTo s (issue s)) : TurnTo s (acceptCommand issue s) := by
  rcases acceptCommand_cases issue s with ⟨-, heq⟩ | ⟨hidle, -, heq⟩ | ⟨hidle, hop, heq⟩ <;> rw [heq]
  · exact .overlap true
  · exact .refuse _ hidle
  · exact h hidle hop

theorem exec_turnTo {i : Instr} (h : i.wf = true) (s : State) : ∃ t, exec i s = .next t ∧ TurnTo s t := by
  cases i with
  | transmit size =>
    have hsize : size ≤ 255 := by simpa [Instr.wf] using h
    exact ⟨_, rfl, acceptCommand_turnTo fun hidle hop => .issueTransmit size hidle hop hsize⟩
  | receive => exact ⟨_, rfl, acceptCommand_turnTo .issueReceive⟩

theorem illegalCommand_turnTo (s : State) : TurnTo s (illegalCommand s) := by
  unfold illegalCommand
  split
  case isTrue => exact .overlap true
  case isFalse hidle => exact .refuse _ (eq_false_of_ne_true hidle)

theorem cmdWrite_turnTo (v : Word) (s : State) : ∃ t, cmdWrite v s = .next t ∧ TurnTo s t := by
  unfold cmdWrite
  split
  case h_1 i hdecode => exact exec_turnTo (decode_wf hdecode) s
  case h_2 => exact ⟨_, rfl, illegalCommand_turnTo s⟩

theorem ctrlWrite_turnTo (v : Word) (s : State) : TurnTo s (ctrlWrite v s) := by
  unfold ctrlWrite
  split
  case isTrue => exact .overlap true
  case isFalse hidle => exact .policies v (eq_false_of_ne_true hidle)

/-- TXBUF's words are 0 to 63 (20_memory.md R211). -/
theorem lt_of_busTarget_txbuf {width : Nat} {off : Offset} {j : Nat} (h : busTarget width off = some (.txbuf j)) :
    j < 64 := by
  unfold busTarget registerAt at h
  dsimp only at h
  split_ifs at h with hwidth haligned hlow htxbuf hrxbuf
  · have hmem := List.mem_of_getElem? h
    simp [lowRegisters] at hmem
  · simp only [Option.some.injEq, Register.txbuf.injEq] at h
    omega
  · cases h

theorem writeRegister_turnTo {r : Register} (h : ∀ j, r = .txbuf j → j < 64) (v : Word) (s : State) :
    ∃ t, writeRegister v s r = .next t ∧ TurnTo s t := by
  cases r with
  | cmd => exact cmdWrite_turnTo v s
  | ctrl => exact ⟨_, rfl, ctrlWrite_turnTo v s⟩
  | status =>
    refine ⟨_, rfl, ?_⟩
    rw [statusWrite_eq]
    exact .overlap _
  | txbuf j => exact ⟨_, rfl, .storeWord j v (h j rfl)⟩
  | _ => exact ⟨s, rfl, .pass⟩

theorem busWrite_turnTo (width : Nat) (off : Offset) (v : Word) (s : State) :
    ∃ t, busWrite width off v s = .next t ∧ TurnTo s t := by
  cases htarget : busTarget width off with
  | none => exact ⟨logFault (.busErr off .write) s, by simp only [busWrite, htarget], .record _ _⟩
  | some r =>
    rw [busWrite_of_target htarget]
    exact writeRegister_turnTo (fun j hj => lt_of_busTarget_txbuf (hj ▸ htarget)) v s

theorem audioIn_turnTo (data : List Byte) (s : State) : TurnTo s (audioIn data s) := by
  unfold audioIn
  split
  case isTrue hop =>
    split
    case isTrue heven => exact .audioIn data hop heven
    case isFalse => exact .record _ _
  case isFalse => exact .pass

/-- AUDIO_OUT of whole Samples: the oldest bytes, and silence for what TXS lacks (41_sample_stream.md R414). -/
theorem audioOut_of_even {n : Nat} {s : State} (hop : s.operational = true) (heven : n % 2 = 0) :
    audioOut n s = .next (giveBack
      (.audioOut ((s.txs.contents s.build.txsBytes).take n ++ List.replicate (n - s.txs.cnt) 0))
      { s with txs := s.txs.advance s.build.txsBytes (min n s.txs.cnt) }) := by
  have htake : (s.txs.contents s.build.txsBytes).take (min n s.txs.cnt) = (s.txs.contents s.build.txsBytes).take n := by
    rw [← Stream.length_contents s.build.txsBytes s.txs, ← List.take_eq_take_min]
  have hpad : n - min n s.txs.cnt = n - s.txs.cnt := by omega
  unfold audioOut
  rw [if_pos hop, if_pos (show n % Config.sampleBytes = 0 from heven), Stream.read_eq (Nat.min_le_right _ _), htake]
  simp only [List.length_take, Stream.length_contents, hpad]

/-- AUDIO_OUT of a length that is not whole Samples (60_exceptions.md R708). -/
theorem audioOut_of_odd {n : Nat} {s : State} (hop : s.operational = true) (hodd : n % 2 ≠ 0) :
    audioOut n s = .next (logFault (.portErr .playback n) s) := by
  unfold audioOut
  rw [if_pos hop]
  exact if_neg hodd

theorem audioOut_turnTo (n : Nat) (s : State) : ∃ t, audioOut n s = .next t ∧ TurnTo s t := by
  by_cases hop : s.operational = true
  · by_cases heven : n % 2 = 0
    · exact ⟨_, audioOut_of_even hop heven, .audioOut n _ hop heven⟩
    · exact ⟨_, audioOut_of_odd hop heven, .record _ _⟩
  · exact ⟨s, by rw [audioOut, if_neg hop], .pass⟩

theorem perform_turnTo (a : Action) (s : State) : ∃ t, perform a s = .next t ∧ TurnTo s t := by
  cases a with
  | busRead width off => exact ⟨_, rfl, busRead_turnTo width off s⟩
  | busWrite width off v => exact busWrite_turnTo width off v s
  | engine => exact engineStep_turnTo s
  | audioIn data => exact ⟨_, rfl, audioIn_turnTo data s⟩
  | audioOut n => exact audioOut_turnTo n s
  | reset ok => exact ⟨_, rfl, .reset ok⟩

/-- A step of a legal build always answers a next state, one that a turn leads to once the turn is off the schedule. -/
theorem step_turnTo {s : State} (hlegal : s.build.legal = true) :
    ∃ t rest, step s = .next t ∧ TurnTo { s with schedule := rest } t := by
  rw [step_of_legal hlegal]
  rcases takeTurn_cases s with ⟨hnone, h⟩ | ⟨a, rest, -, h⟩
  · obtain ⟨t, hstep, hturn⟩ := engineStep_turnTo s
    exact ⟨t, s.schedule, h.trans hstep, hturn⟩
  · obtain ⟨t, hstep, hturn⟩ := perform_turnTo a { s with schedule := rest }
    exact ⟨t, rest, h.trans hstep, hturn⟩

/-- A property that the schedule does not touch and every turn of a legal build keeps is kept by every step. -/
theorem step_keeps {P : State → Prop} (hschedule : ∀ s rest, P s → P { s with schedule := rest })
    (hturn : ∀ s t, s.build.legal = true → P s → TurnTo s t → P t) {s t : State} (hs : P s)
    (hstep : step s = .next t) : P t := by
  cases hlegal : s.build.legal with
  | false => rw [step_of_illegal hlegal] at hstep; cases hstep
  | true =>
    obtain ⟨t', rest, hnext, hto⟩ := step_turnTo hlegal
    obtain rfl := Host.Outcome.next.inj (hnext.symm.trans hstep)
    exact hturn { s with schedule := rest } t' hlegal (hschedule s rest hs) hto

theorem ReceiveTo.build_eq {s t : State} (h : ReceiveTo s t) : t.build = s.build := by
  cases h <;> rfl

theorem TurnTo.build_eq {s t : State} (h : TurnTo s t) : t.build = s.build := by
  cases h with
  | receive _ _ hto => exact hto.build_eq
  | _ => rfl

/-- Settles O8: every turn of a legal build leads to a next state, of the same build. -/
theorem noStepOfALegalBuildStops : Obligations.NoStepOfALegalBuildStops := by
  intro s hlegal
  obtain ⟨t, rest, hstep, hturn⟩ := step_turnTo hlegal
  exact ⟨t, hstep, hturn.build_eq⟩

/-! ### The stream invariant (R402) -/

theorem StreamInv.empty {cap : Nat} (h : 0 < cap) : StreamInv cap ⟨[], 0, 0⟩ :=
  ⟨Nat.zero_le _, rfl, h, rfl, rfl, rfl⟩

/-- The capacities of a legal build are whole Samples and not 0 (00_scope.md R11). -/
theorem capacities_of_legal {b : Build} (h : b.legal = true) :
    (b.rxsBytes % 2 = 0 ∧ 0 < b.rxsBytes) ∧ b.txsBytes % 2 = 0 ∧ 0 < b.txsBytes := by
  obtain ⟨hwindow, -, -, -, -, -, -, hstreams⟩ := b.legal_iff.mp h
  obtain ⟨-, -, hN, -⟩ := b.legalWindow_iff.mp hwindow
  obtain ⟨hrx, hrxle, htx, htxle⟩ := b.legalStreams_iff.mp hstreams
  omega

theorem streamsInv_start {b : Build} (h : b.legal = true) (ok : Bool) : StreamsInv (State.start b ok) := by
  obtain ⟨⟨-, hrx⟩, -, htx⟩ := capacities_of_legal h
  exact ⟨.empty hrx, .empty htx⟩

/-- The receiver reads whole Samples. -/
theorem receiveNeed_even (s : State) : receiveNeed s % 2 = 0 := by
  unfold receiveNeed
  cases s.rxst <;> simp [Config.sampleBytes]

/-- A micro-step of RECEIVE takes the bytes it needs from RXS, if any, and leaves TXS. -/
theorem ReceiveTo.streams {s t : State} (h : ReceiveTo s t) :
    t.txs = s.txs ∧ (t.rxs = s.rxs ∨ t.rxs = s.rxs.advance s.build.rxsBytes (receiveNeed s)) := by
  cases h with
  | scan hst | trigger hst | nextSignature hst | synchronized hst | reject hst =>
    exact ⟨rfl, .inr (by rw [receiveNeed, hst]; rfl)⟩
  | abort hst | nextBit hst | complete hst =>
    exact ⟨rfl, .inr (by rcases hst with hst | hst <;> (rw [receiveNeed, hst]; rfl))⟩
  | deliver | mismatch => exact ⟨rfl, .inl rfl⟩

theorem StreamsInv.receiveTo {s t : State} (hlegal : s.build.legal = true) (h : StreamsInv s)
    (hneed : receiveNeed s ≤ s.rxs.cnt) (hto : ReceiveTo s t) : StreamsInv t := by
  obtain ⟨⟨hrx, -⟩, -⟩ := capacities_of_legal hlegal
  obtain ⟨hrxs, htxs⟩ := h
  obtain ⟨htx, hsame | htaken⟩ := hto.streams
  · rw [StreamsInv, hto.build_eq, htx, hsame]
    exact ⟨hrxs, htxs⟩
  · rw [StreamsInv, hto.build_eq, htx, htaken]
    exact ⟨hrxs.advance hrx (receiveNeed_even s) hneed, htxs⟩

theorem StreamsInv.sendWindow {s : State} (hlegal : s.build.legal = true) (h : StreamsInv s) :
    StreamInv s.build.txsBytes (s.txs.write s.build.txsBytes (bytesOfWindow (sentWindow s))) := by
  obtain ⟨-, htx, -⟩ := capacities_of_legal hlegal
  obtain ⟨-, htxs⟩ := h
  exact htxs.write htx (by simp [sentWindow])

theorem StreamsInv.turnTo {s t : State} (hlegal : s.build.legal = true) (h : StreamsInv s) (hto : TurnTo s t) :
    StreamsInv t := by
  obtain ⟨⟨hrx, -⟩, htx, -⟩ := capacities_of_legal hlegal
  have ⟨hrxs, htxs⟩ := h
  cases hto with
  | audioIn data _ heven => exact ⟨hrxs.write hrx heven, htxs⟩
  | audioOut n r _ heven =>
    have ⟨_, hcnt, _⟩ := htxs
    rw [Config.sampleBytes] at hcnt
    exact ⟨hrxs, htxs.advance htx (by omega) (Nat.min_le_right _ _)⟩
  | reset ok => exact streamsInv_start hlegal ok
  | emit | emitLast => exact ⟨hrxs, h.sendWindow hlegal⟩
  | receive _ hneed hto => exact h.receiveTo hlegal hneed hto
  | _ => exact h

/-- Settles O22: empty streams meet the invariant, and no turn of a legal build leaves it. -/
theorem streamInvariantIsKept : Obligations.StreamInvariantIsKept := by
  refine ⟨fun b ok h => streamsInv_start h ok, fun s t h hstep => ?_, fun s h => ?_⟩
  · exact step_keeps (fun _ _ h => h) (fun _ _ hlegal h hto => h.turnTo hlegal hto) h hstep
  · obtain ⟨⟨hrxle, hrxeven, -⟩, htxle, htxeven, -⟩ := h
    exact ⟨hrxle, hrxeven, htxle, htxeven⟩

/-! ### The audio transactions (R411, R414, R415) -/

/-- Settles O23: the turn is a StreamWrite on RXS, whose contents `StreamInv.contents_write` gives. -/
theorem audioInAppendsToRxs : Obligations.AudioInAppendsToRxs := by
  intro s data rest hlegal hstreams hop heven hschedule
  obtain ⟨⟨hrx, -⟩, -⟩ := capacities_of_legal hlegal
  obtain ⟨hrxs, -⟩ := hstreams
  refine ⟨{ s with schedule := rest, rxs := s.rxs.write s.build.rxsBytes data }, ?_, rfl,
    hrxs.contents_write hrx heven⟩
  rw [(stepTakesTheNextTurn s hlegal).1 _ _ hschedule, perform, audioIn, if_pos hop]
  exact congrArg Host.Outcome.next (if_pos heven)

/-- Settles O24: the turn takes what TXS holds of the `n` bytes, and the rest of them is silence. -/
theorem audioOutDrainsTxsWithSilence : Obligations.AudioOutDrainsTxsWithSilence := by
  intro s n rest hlegal _ hop hschedule
  rw [(stepTakesTheNextTurn s hlegal).1 _ _ hschedule]
  refine ⟨fun heven => ⟨_, audioOut_of_even hop heven, rfl, ?_⟩, fun hodd => audioOut_of_odd hop hodd⟩
  have hdrop : (s.txs.contents s.build.txsBytes).drop (min n s.txs.cnt) = (s.txs.contents s.build.txsBytes).drop n := by
    rw [← Stream.length_contents s.build.txsBytes s.txs, ← List.drop_eq_drop_min]
  rw [← hdrop]
  exact Stream.contents_advance _ _ _

end Sys2Proof.Machine

/-! The invariant of the machine (Safety.lean), group by group: what a turn does to each. -/

namespace Sys2Proof.Machine

/-! ### Bounds of a legal build (00_scope.md R11, R13) -/

theorem one_le_F_of_legal {b : Build} (h : b.legal = true) : 1 ≤ b.F := by
  obtain ⟨-, hcarriers, -⟩ := b.legal_iff.mp h
  exact (b.legalCarriers_iff.mp hcarriers).1

theorem one_le_N_of_legal {b : Build} (h : b.legal = true) : 1 ≤ b.N := by
  obtain ⟨hwindow, -⟩ := b.legal_iff.mp h
  obtain ⟨-, -, hN, -⟩ := b.legalWindow_iff.mp hwindow
  omega

theorem toNat_baseThreshold_of_legal {b : Build} (h : b.legal = true) : (baseThreshold b).toNat ≤ 32767 := by
  obtain ⟨-, -, -, -, -, hlevels, -⟩ := b.legal_iff.mp h
  obtain ⟨-, -, hlevel⟩ := b.legalLevels_iff.mp hlevels
  rw [baseThreshold, BitVec.toNat_ofNat]
  exact (Nat.mod_le _ _).trans hlevel

theorem multibytes_mono (b : Build) {m n : Nat} (h : m ≤ n) : b.multibytes m ≤ b.multibytes n :=
  Nat.div_le_div_right (by omega)

/-- A Multibyte that begins in a frame buffer ends in it: the buffer is whole Multibytes. -/
theorem multibyte_fits {b : Build} {start : Nat} (hdvd : b.F ∣ start) (h : start < b.frameBufferBytes) :
    start + b.F ≤ b.frameBufferBytes :=
  Nat.le_of_lt_add_of_dvd (by omega) (hdvd.add (dvd_refl _)) (Dvd.intro_left _ rfl)

/-- A frame buffer holds the F + 3 bytes of a Header and the largest payload (00_scope.md R13). -/
theorem header_add_max_le_frameBuffer {b : Build} (hF : 1 ≤ b.F) : b.F + 3 + 255 ≤ b.frameBufferBytes :=
  header_add_payload_le_frame hF 255

/-! ### The command state (10_state.md R112, R114, R141) -/

theorem commandInv_finish {code : ResultCode} {size : Byte} {s : State} (hsize : size ≠ 0 → code = .delivered)
    (htnw : s.tnw ≤ 8 * s.build.multibytes 255) (htidx : s.tidx ≤ s.tnw + 1) : CommandInv (finish code size s) :=
  ⟨by simp, by simp, hsize, htnw, htidx, by simp⟩

theorem commandInv_start (b : Build) (ok : Bool) : CommandInv (State.start b ok) :=
  ⟨by simp [State.start], by simp [State.start], by simp [State.start], Nat.zero_le _, Nat.zero_le _,
    fun _ => Nat.zero_le _⟩

theorem CommandInv.receiveTo {s t : State} (h : CommandInv s) (hto : ReceiveTo s t) : CommandInv t := by
  have ⟨_, _, _, htnw, htidx, _⟩ := h
  cases hto with
  | abort | mismatch => exact commandInv_finish (fun hne => absurd rfl hne) htnw htidx
  | deliver => exact commandInv_finish (fun _ => rfl) htnw htidx
  | _ => exact h

theorem CommandInv.turnTo {s t : State} (h : CommandInv s) (hto : TurnTo s t) : CommandInv t := by
  have ⟨hcurop, hop, hrsize, htnw, htidx, hsending⟩ := h
  cases hto with
  | refuse code => exact ⟨hcurop, hop, fun hne => absurd rfl hne, htnw, htidx, hsending⟩
  | issueTransmit size _ hop hsize =>
    have hframe := multibytes_mono s.build hsize
    exact ⟨by simp, fun _ => hop, hrsize, by simpa using hframe, Nat.zero_le _, fun _ => Nat.zero_le _⟩
  | issueReceive _ hop => exact ⟨by simp, fun _ => hop, hrsize, htnw, htidx, by simp⟩
  | reset ok => exact commandInv_start s.build ok
  | emit _ hlt => exact ⟨hcurop, hop, hrsize, htnw, by dsimp only; omega, fun _ => hlt⟩
  | emitLast _ hlast => exact commandInv_finish (fun hne => absurd rfl hne) htnw (by dsimp only; omega)
  | noDataYet => exact commandInv_finish (fun hne => absurd rfl hne) htnw htidx
  | receive _ _ hto => exact h.receiveTo hto
  | _ => exact h

/-! ### The trigger (10_state.md R135, R136) -/

/-- A Sample's magnitude fits VTRIG (00_scope.md R15). -/
theorem sampleAbs_le (v : Sample) : sampleAbs v ≤ 32768 := by
  have hlow := BitVec.le_toInt v
  have hhigh := BitVec.toInt_lt (x := v)
  unfold sampleAbs
  omega

theorem ThresholdInv.receiveTo {s t : State} (hlegal : s.build.legal = true) (h : ThresholdInv s)
    (hto : ReceiveTo s t) : ThresholdInv t := by
  have ⟨hbase, hvtrig, hthr⟩ := h
  have hlevel := toNat_baseThreshold_of_legal hlegal
  cases hto with
  | trigger =>
    have habs := sampleAbs_le (scannedSample s)
    exact ⟨hbase, by rw [triggerAction_vtrig, BitVec.toNat_ofNat]; omega, hthr⟩
  | synchronized => exact ⟨fun _ => rfl, hvtrig, by rw [synchronized_thr]; exact hlevel.trans (by decide)⟩
  | reject =>
    have hdouble : (s.vtrig.setWidth 17 <<< 1).toNat ≤ 65536 := by
      rw [BitVec.toNat_shiftLeft, BitVec.toNat_setWidth, Nat.shiftLeft_eq]
      omega
    refine ⟨fun hoff => ?_, hvtrig, ?_⟩
    · rw [rejectSignature_thr]
      exact (if_neg (ne_true_of_eq_false hoff)).trans (hbase hoff)
    · rw [rejectSignature_thr]
      split
      · exact hdouble
      · exact hthr
  | _ => exact h

theorem ThresholdInv.turnTo {s t : State} (hlegal : s.build.legal = true) (h : ThresholdInv s) (hto : TurnTo s t) :
    ThresholdInv t := by
  have hlevel : (baseThreshold s.build).toNat ≤ 65536 := (toNat_baseThreshold_of_legal hlegal).trans (by decide)
  have ⟨_, hvtrig, _⟩ := h
  cases hto with
  | policies => exact ⟨fun _ => rfl, hvtrig, hlevel⟩
  | reset ok => exact ⟨fun _ => rfl, Nat.zero_le _, hlevel⟩
  | receive _ _ hto => exact h.receiveTo hlegal hto
  | _ => exact h

/-! ### Without an audio device (60_exceptions.md R704) -/

theorem ReceiveTo.operational_eq {s t : State} (h : ReceiveTo s t) : t.operational = s.operational := by
  cases h <;> rfl

theorem UnavailableInv.turnTo {s t : State} (hcommand : CommandInv s) (h : UnavailableInv s) (hto : TurnTo s t) :
    UnavailableInv t := by
  obtain ⟨-, hbusyop, -⟩ := hcommand
  have hactive {u : State} (hop : s.operational = true) (hsame : u.operational = s.operational) : UnavailableInv u :=
    fun hdead => absurd (hsame.trans hop) (ne_true_of_eq_false hdead)
  cases hto with
  | issueTransmit _ _ hop | issueReceive _ hop | audioIn _ hop | audioOut _ _ hop => exact hactive hop rfl
  | emit hbusy | emitLast hbusy | noDataYet hbusy => exact hactive (hbusyop hbusy) rfl
  | receive hbusy _ hto => exact hactive (hbusyop hbusy) hto.operational_eq
  | reset ok => exact fun _ => ⟨rfl, rfl, rfl, rfl⟩
  | _ => exact h

/-! ### The receiver's position, frame buffer and calibration (10_state.md R124 to R133, 46_receiver.md R665) -/

theorem decoding_iff {s : State} : decoding s = true ↔ s.rxst = .header ∨ s.rxst = .payload := by simp [decoding]

theorem inFrame_of_decoding {s : State} (h : decoding s = true) : inFrame s = true := by simp [inFrame, h]

section

variable {s : State} (hwbuf : s.wbuf.length = s.build.N) (hcal : s.cal.length = s.build.F)
  (hrcvd : s.rcvd ≤ s.build.frameBufferBytes)
include hwbuf hcal hrcvd

theorem receiverInv_of_scanning (hst : s.rxst = .scanning) (hwfill : s.wfill = 0) (hrwidx : s.rwidx = 0) :
    ReceiverInv s := by
  simp [ReceiverInv, inFrame, decoding, hwbuf, hcal, hrcvd, hst, hwfill, hrwidx]

theorem receiverInv_of_syncing (hst : s.rxst = .syncing) (hwfill : s.wfill = if s.rwidx = 0 then 1 else 0) :
    ReceiverInv s := by
  simp [ReceiverInv, inFrame, decoding, hwbuf, hcal, hrcvd, hst, hwfill]

theorem receiverInv_of_decoding (hst : s.rxst = .header ∨ s.rxst = .payload) (hwfill : s.wfill = 0)
    (hheader : s.rxst = .header → s.rcvd = s.build.F)
    (hpayload : s.rxst = .payload → s.rcvd % s.build.F = 0 ∧ 2 * s.build.F ≤ s.rcvd
      ∧ s.rcvd < s.build.headerBytes + (receivedSize s).toNat)
    (hsig : ∀ i, i < s.build.F → s.fb.read i = 0xFF) (hpos : ∀ p ∈ s.cal, 0 < p)
    (hzero : ∀ i, s.rcvd + s.build.F ≤ i → s.fb.read i = 0)
    (hbits : ∀ c, c < s.build.F → (s.fb.read (s.rcvd + c)).toNat < 2 ^ s.rwidx.toNat) : ReceiverInv s := by
  obtain ⟨hscanning, hsyncing, hvalidating⟩ : s.rxst ≠ .scanning ∧ s.rxst ≠ .syncing ∧ s.rxst ≠ .validating := by
    rcases hst with hst | hst <;> simp [hst]
  exact ⟨hwbuf, hcal, hwfill.trans (if_neg fun hand => hsyncing hand.1).symm,
    fun hor => absurd hor (not_or_intro hscanning hvalidating), hrcvd, hheader, hpayload,
    fun hval => absurd hval hvalidating, fun _ => ⟨hsig, hpos⟩, fun _ => ⟨hzero, hbits⟩⟩

theorem receiverInv_of_validating (hst : s.rxst = .validating) (hwfill : s.wfill = 0) (hrwidx : s.rwidx = 0)
    (hmod : s.rcvd % s.build.F = 0) (hdone : s.build.headerBytes + (receivedSize s).toNat ≤ s.rcvd)
    (hlast : s.rcvd < s.build.headerBytes + (receivedSize s).toNat + s.build.F)
    (hsig : ∀ i, i < s.build.F → s.fb.read i = 0xFF) (hpos : ∀ p ∈ s.cal, 0 < p) : ReceiverInv s :=
  ⟨hwbuf, hcal, by simp [hst, hwfill], fun _ => hrwidx, hrcvd, by simp [hst], by simp [hst],
    fun _ => ⟨hmod, hdone, hlast⟩, fun _ => ⟨hsig, hpos⟩, by simp [decoding, hst]⟩

end

theorem receiverInv_start (b : Build) (ok : Bool) : ReceiverInv (State.start b ok) :=
  receiverInv_of_scanning (by simp [State.start]) (by simp [State.start]) (Nat.zero_le _) rfl rfl rfl

theorem length_nextWindow {s : State} (hN : 1 ≤ s.build.N) (h : ReceiverInv s) :
    (nextWindow s).length = s.build.N := by
  obtain ⟨hwbuf, -, hwfill, -⟩ := h
  have hle : s.wfill ≤ 1 := by rw [hwfill]; split <;> decide
  rw [nextWindow, List.length_append, List.length_take, hwbuf, length_windowOfBytes (s.build.N - s.wfill)]
  · omega
  · rw [Stream.length_oldest, Config.sampleBytes, Nat.mul_comm]

/-- In HEADER and PAYLOAD the Multibyte being received lies in the frame buffer, behind the signature. -/
theorem ReceiverInv.multibyte_room {s : State} (hF : 1 ≤ s.build.F) (h : ReceiverInv s)
    (hst : s.rxst = .header ∨ s.rxst = .payload) :
    s.build.F ∣ s.rcvd ∧ s.build.F ≤ s.rcvd ∧ s.rcvd + s.build.F ≤ s.build.frameBufferBytes := by
  obtain ⟨-, -, -, -, -, hheader, hpayload, -⟩ := h
  have hframe := header_add_max_le_frameBuffer hF
  have hheaderBytes : s.build.headerBytes = s.build.F + 3 := rfl
  rcases hst with hst | hst
  · have hrcvd := hheader hst
    have hdvd : s.build.F ∣ s.rcvd := hrcvd ▸ dvd_refl _
    exact ⟨hdvd, hrcvd.ge, multibyte_fits hdvd (by omega)⟩
  · obtain ⟨hmod, hle, hlt⟩ := hpayload hst
    have hdvd := Nat.dvd_of_mod_eq_zero hmod
    have hsize := (receivedSize s).isLt
    exact ⟨hdvd, by omega, multibyte_fits hdvd (by omega)⟩

/-- The bits of the Multibit read enter the Multibyte at RCVD. -/
theorem read_afterMultibit {s : State} (hwf : s.fb.wf = true) (a : Nat) :
    (afterMultibit s).fb.read a = if s.rcvd ≤ a ∧ a < s.rcvd + s.build.F then
      s.fb.read a ||| (if (decodeMultibit s.build (nextWindow s) s.cal).getD (a - s.rcvd) false
        then 1#8 <<< s.rwidx.toNat else 0#8)
    else s.fb.read a := by
  rw [← length_decodeMultibit s.build (nextWindow s) s.cal]
  exact read_orMultibit hwf _ _ _ _

theorem read_afterMultibit_outside {s : State} (hwf : s.fb.wf = true) {a : Nat}
    (ha : a < s.rcvd ∨ s.rcvd + s.build.F ≤ a) : (afterMultibit s).fb.read a = s.fb.read a := by
  rw [read_afterMultibit hwf, if_neg (by omega)]

/-- A byte with the bits below `k` in use may take bit `k`. -/
theorem or_bit_lt {x : Byte} {k : Nat} (hx : x.toNat < 2 ^ k) (bit : Bool) :
    (x ||| (if bit then 1#8 <<< k else 0#8)).toNat < 2 ^ (k + 1) := by
  rw [BitVec.toNat_or]
  refine Nat.or_lt_two_pow (hx.trans (Nat.pow_lt_pow_succ (by decide))) ?_
  cases bit with
  | false => exact Nat.two_pow_pos _
  | true =>
    rw [if_pos rfl, BitVec.toNat_shiftLeft, BitVec.toNat_ofNat, Nat.shiftLeft_eq]
    have hmod := Nat.mod_le (1 % 2 ^ 8 * 2 ^ k) (2 ^ 8)
    have hpow := Nat.pow_lt_pow_succ (a := 2) (n := k) (by decide)
    omega

theorem rwidx_succ_toNat {k : BitVec 3} (h : k.toNat < 7) : (k + 1).toNat = k.toNat + 1 := by
  bv_omega

/-- What the Multibit read leaves of the frame buffer: the signature, the zeros behind the Multibyte, and a size field
past the Multibyte's start, which is in place before PAYLOAD begins. -/
theorem afterMultibit_frame {s : State} (hF : 1 ≤ s.build.F) (hwf : s.fb.wf = true) (h : ReceiverInv s)
    (hst : s.rxst = .header ∨ s.rxst = .payload) :
    (∀ i, i < s.build.F → (afterMultibit s).fb.read i = 0xFF)
      ∧ (∀ i, s.rcvd + s.build.F ≤ i → (afterMultibit s).fb.read i = 0)
      ∧ s.rcvd < s.build.headerBytes + (receivedSize (afterMultibit s)).toNat := by
  obtain ⟨-, hle, -⟩ := h.multibyte_room hF hst
  obtain ⟨-, -, -, -, -, hheader, hpayload, -, hinFrame, hdecoding⟩ := h
  have hdec := decoding_iff.mpr hst
  obtain ⟨hsig, -⟩ := hinFrame (inFrame_of_decoding hdec)
  obtain ⟨hzero, -⟩ := hdecoding hdec
  refine ⟨fun i hi => ?_, fun i hi => ?_, ?_⟩
  · rw [read_afterMultibit_outside hwf (.inl (by omega)), hsig i hi]
  · rw [read_afterMultibit_outside hwf (.inr hi), hzero i hi]
  · rcases hst with hst | hst
    · have hrcvd := hheader hst
      rw [Build.headerBytes]
      omega
    · obtain ⟨-, htwo, hend⟩ := hpayload hst
      have hsize : receivedSize (afterMultibit s) = receivedSize s :=
        read_afterMultibit_outside (a := s.build.F) hwf (.inl (by omega))
      rw [hsize]
      exact hend

theorem ReceiverInv.nextBit {s : State} (hlegal : s.build.legal = true) (hwf : s.fb.wf = true) (h : ReceiverInv s)
    (hst : s.rxst = .header ∨ s.rxst = .payload) (hlt : s.rwidx.toNat < 7) :
    ReceiverInv { afterMultibit s with rwidx := s.rwidx + 1 } := by
  obtain ⟨hsig, hzero, hend⟩ := afterMultibit_frame (one_le_F_of_legal hlegal) hwf h hst
  have hwindow := length_nextWindow (one_le_N_of_legal hlegal) h
  obtain ⟨-, hcal, -, -, hrcvd, hheader, hpayload, -, hinFrame, hdecoding⟩ := h
  have hdec := decoding_iff.mpr hst
  obtain ⟨-, hbits⟩ := hdecoding hdec
  obtain ⟨-, hpos⟩ := hinFrame (inFrame_of_decoding hdec)
  refine receiverInv_of_decoding hwindow hcal hrcvd hst rfl hheader (fun hpay => ?_) hsig hpos hzero fun c hc => ?_
  · obtain ⟨hmod, htwo, -⟩ := hpayload hpay
    exact ⟨hmod, htwo, hend⟩
  · change ((afterMultibit s).fb.read (s.rcvd + c)).toNat < 2 ^ (s.rwidx + 1).toNat
    rw [read_afterMultibit hwf, if_pos ⟨Nat.le_add_right _ _, Nat.add_lt_add_left hc _⟩, rwidx_succ_toNat hlt]
    exact or_bit_lt (hbits c hc) _

/-- The Multibyte began before the Frame's end: at its own end the Frame is complete, or the next Multibyte is empty. -/
theorem ReceiverInv.complete {s : State} (hlegal : s.build.legal = true) (hwf : s.fb.wf = true) (h : ReceiverInv s)
    (hst : s.rxst = .header ∨ s.rxst = .payload) : ReceiverInv (completeMultibyte (afterMultibit s)) := by
  have hF := one_le_F_of_legal hlegal
  obtain ⟨hdvd, hle, hroom⟩ := h.multibyte_room hF hst
  obtain ⟨hsig, hzero, hend⟩ := afterMultibit_frame hF hwf h hst
  have hwindow := length_nextWindow (one_le_N_of_legal hlegal) h
  obtain ⟨-, hcal, -, -, -, -, -, -, hinFrame, -⟩ := h
  obtain ⟨-, hpos⟩ := hinFrame (inFrame_of_decoding (decoding_iff.mpr hst))
  have hmod : (s.rcvd + s.build.F) % s.build.F = 0 := Nat.mod_eq_zero_of_dvd (hdvd.add (dvd_refl _))
  by_cases hdone : s.build.headerBytes + (receivedSize (afterMultibit s)).toNat ≤ s.rcvd + s.build.F
  · exact receiverInv_of_validating (s := completeMultibyte (afterMultibit s)) hwindow hcal hroom (if_pos hdone) rfl rfl
      hmod hdone (Nat.add_lt_add_right hend _) hsig hpos
  · have hpayload : (completeMultibyte (afterMultibit s)).rxst = .payload := if_neg hdone
    have htwo : 2 * s.build.F ≤ s.rcvd + s.build.F := by omega
    refine receiverInv_of_decoding (s := completeMultibyte (afterMultibit s)) hwindow hcal hroom (.inr hpayload) rfl ?_
      (fun _ => ⟨hmod, htwo, Nat.lt_of_not_le hdone⟩) hsig hpos (fun i hi => ?_) fun c _ => ?_
    · rw [hpayload]
      exact fun hheader => nomatch hheader
    · exact hzero i ((Nat.le_add_right _ _).trans hi)
    · exact (congrArg BitVec.toNat (hzero _ (Nat.le_add_right _ c))).trans_lt (Nat.two_pow_pos _)

/-- A Window that passes CarrierTest has power at every carrier (43_sync_calibration.md R505, R508). -/
theorem carrierPowers_pos {b : Build} {w : Window} (h : carrierTest b w = true) : ∀ p ∈ carrierPowers b w, 0 < p := by
  intro p hp
  simp only [carrierTest, List.all_eq_true, decide_eq_true_eq] at h
  exact Nat.pos_of_ne_zero fun hzero => by simpa [hzero] using h p hp

theorem read_signature (F i : Nat) :
    (Memory.ofBytes (List.replicate F 0xFF)).read i = if i < F then 0xFF else 0 := by
  rw [Memory.read_ofBytes]
  split
  case isTrue hi => exact (List.getD_eq_getElem _ _ (by simpa using hi)).trans (List.getElem_replicate _)
  case isFalse hi => exact List.getD_eq_default _ _ (by simpa using hi)

/-- Synchronized starts a Frame: its signature stands in FB and every carrier is calibrated. -/
theorem receiverInv_synchronized {w : Window} {s : State} (hF : 1 ≤ s.build.F) (hwbuf : s.wbuf.length = s.build.N)
    (hwfill : s.wfill = 0) (htest : carrierTest s.build w = true) : ReceiverInv (synchronized w s) := by
  have hframe := header_add_max_le_frameBuffer hF
  have hroom : s.build.F ≤ s.build.frameBufferBytes := by omega
  refine receiverInv_of_decoding (s := synchronized w s) hwbuf (length_carrierPowers _ _) hroom (.inl rfl) hwfill
    (fun _ => rfl) (fun hpayload => nomatch hpayload) (fun i hi => ?_) (carrierPowers_pos htest) (fun i hi => ?_)
    fun c _ => ?_
  · exact (read_signature _ i).trans (if_pos hi)
  · exact (read_signature _ i).trans (if_neg ((Nat.le_add_right _ _).trans hi).not_gt)
  · have hread := (read_signature s.build.F (s.build.F + c)).trans (if_neg (by omega))
    exact (congrArg BitVec.toNat hread).trans_lt (Nat.two_pow_pos _)

theorem ReceiverInv.receiveTo {s t : State} (hlegal : s.build.legal = true) (hwf : s.fb.wf = true) (h : ReceiverInv s)
    (hto : ReceiveTo s t) : ReceiverInv t := by
  have hwindow := length_nextWindow (one_le_N_of_legal hlegal) h
  have ⟨hwbuf, hcal, hwfill, _, hrcvd, _⟩ := h
  cases hto with
  | scan => exact h
  | trigger => exact receiverInv_of_syncing (by simpa [afterSample] using hwbuf) hcal hrcvd rfl rfl
  | nextSignature hst _ hlt =>
    have hne : s.rwidx + 1 ≠ 0 := by bv_omega
    exact receiverInv_of_syncing hwindow hcal hrcvd hst (if_neg hne).symm
  | synchronized _ hcheck =>
    obtain ⟨htest, -⟩ := Bool.and_eq_true_iff.mp hcheck
    exact receiverInv_synchronized (one_le_F_of_legal hlegal) hwindow rfl htest
  | reject | abort => exact receiverInv_of_scanning hwindow hcal hrcvd rfl rfl rfl
  | nextBit hst hlt => exact h.nextBit hlegal hwf hst hlt
  | complete hst => exact h.complete hlegal hwf hst
  | deliver hst | mismatch hst =>
    exact receiverInv_of_scanning hwbuf hcal hrcvd rfl (hwfill.trans (if_neg (by simp [hst]))) rfl

theorem ReceiverInv.turnTo {s t : State} (hlegal : s.build.legal = true) (hwf : s.fb.wf = true) (h : ReceiverInv s)
    (hto : TurnTo s t) : ReceiverInv t := by
  cases hto with
  | reset ok => exact receiverInv_start s.build ok
  | receive _ _ hto => exact h.receiveTo hlegal hwf hto
  | _ => exact h

/-! ### The buffers (10_state.md R119, R133, R141) -/

theorem BuffersInv.receiveTo {s t : State} (hlegal : s.build.legal = true) (hreceiver : ReceiverInv s)
    (h : BuffersInv s) (hto : ReceiveTo s t) : BuffersInv t := by
  have hF := one_le_F_of_legal hlegal
  have hframe := header_add_max_le_frameBuffer hF
  have ⟨htxwf, htxin, hfbwf, hfbin, htfb⟩ := h
  have hmultibit (hst : s.rxst = .header ∨ s.rxst = .payload) :
      (afterMultibit s).fb.within s.build.frameBufferBytes = true := by
    obtain ⟨-, -, hroom⟩ := hreceiver.multibyte_room hF hst
    exact within_orMultibit hfbin (by rw [length_decodeMultibit]; exact hroom)
  cases hto with
  | synchronized =>
    have hfits : s.build.F ≤ s.build.frameBufferBytes := by omega
    exact ⟨htxwf, htxin, Memory.wf_ofBytes _, Memory.within_ofBytes (by rwa [List.length_replicate]), htfb⟩
  | nextBit hst | complete hst => exact ⟨htxwf, htxin, wf_orMultibit hfbwf _ _ _, hmultibit hst, htfb⟩
  | _ => exact h

theorem BuffersInv.turnTo {s t : State} (hlegal : s.build.legal = true) (hreceiver : ReceiverInv s)
    (h : BuffersInv s) (hto : TurnTo s t) : BuffersInv t := by
  have ⟨htxwf, htxin, hfbwf, hfbin, _⟩ := h
  cases hto with
  | storeWord j v hj =>
    obtain ⟨-, -, hrest⟩ := h
    exact ⟨storeWord_wf htxwf j v, storeWord_within htxin hj v, hrest⟩
  | issueTransmit size _ _ hsize =>
    have hfits : s.build.multibytes size * s.build.F ≤ s.build.frameBufferBytes :=
      Nat.mul_le_mul_right _ (multibytes_mono s.build hsize)
    exact ⟨htxwf, htxin, hfbwf, hfbin, Memory.wf_ofBytes _, Memory.within_ofBytes (by rwa [length_buildFrame])⟩
  | reset ok => exact ⟨rfl, rfl, rfl, rfl, rfl, rfl⟩
  | receive _ _ hto => exact h.receiveTo hlegal hreceiver hto
  | _ => exact h

/-! ### The invariant of the machine -/

theorem Inv.turnTo {s t : State} (hlegal : s.build.legal = true) (h : Inv s) (hto : TurnTo s t) : Inv t := by
  obtain ⟨hstreams, hbuffers, hcommand, hthreshold, hunavailable, hreceiver⟩ := h
  have ⟨_, _, hfbwf, _⟩ := hbuffers
  exact ⟨hstreams.turnTo hlegal hto, hbuffers.turnTo hlegal hreceiver hto, hcommand.turnTo hto,
    hthreshold.turnTo hlegal hto, hunavailable.turnTo hcommand hto, hreceiver.turnTo hlegal hfbwf hto⟩

/-- Settles O60: no turn of a legal build leaves the invariant, and an illegal build has no step. -/
theorem stepKeepsTheInvariant : Obligations.StepKeepsTheInvariant := fun _ _ h hstep =>
  step_keeps (fun _ _ h => h) (fun _ _ hlegal h hto => h.turnTo hlegal hto) h hstep

end Sys2Proof.Machine

/-! The statements of 42_bit_codec.md: Encode, the datapath's widths, the powerless Windows and the threshold tests. -/

namespace Sys2Proof.Machine

/-! ### The ROM and the sums of a legal build (R452, R460) -/

theorem N_le_of_legal {b : Build} (h : b.legal = true) : b.N ≤ 65536 := by
  obtain ⟨hwindow, -⟩ := b.legal_iff.mp h
  obtain ⟨-, -, -, hN⟩ := b.legalWindow_iff.mp hwindow
  exact hN

theorem two_le_half_N_of_legal {b : Build} (h : b.legal = true) : 2 ≤ b.N / 2 := by
  obtain ⟨hwindow, -⟩ := b.legal_iff.mp h
  obtain ⟨-, -, hN, -⟩ := b.legalWindow_iff.mp hwindow
  omega

theorem legalRom_of_legal {b : Build} (h : b.legal = true) : b.legalRom = true := by
  obtain ⟨-, -, hcos, hsin, hformula, -⟩ := b.legal_iff.mp h
  exact (legalRom_iff (one_le_N_of_legal h)).mpr ⟨hcos, hsin, hformula⟩

theorem natAbs_rom_le_of_legal {b : Build} (h : b.legal = true) (j : Nat) :
    (b.cosAt j).natAbs ≤ 32767 ∧ (b.sinAt j).natAbs ≤ 32767 :=
  natAbs_rom_le (one_le_N_of_legal h) (legalRom_of_legal h) j

/-- The ROM starts at the cosine's peak (R452). -/
theorem cosAt_zero_of_legal {b : Build} (h : b.legal = true) : b.cosAt 0 = 32767 := by
  obtain ⟨hwindow, -⟩ := b.legal_iff.mp h
  obtain ⟨-, heven, hN, -⟩ := b.legalWindow_iff.mp hwindow
  exact (rom_at_axes (by omega) (Nat.mod_eq_zero_of_dvd heven) (legalRom_of_legal h)).1

/-- A sum of `n` terms, each of size at most `B`, has size at most `n * B`. -/
theorem natAbs_sum_map_range_le {f : Nat → Int} {B : Nat} (n : Nat) (h : ∀ i, (f i).natAbs ≤ B) :
    ((List.range n).map f).sum.natAbs ≤ n * B :=
  calc (∑ i ∈ Finset.range n, f i).natAbs
      ≤ ∑ i ∈ Finset.range n, (f i).natAbs := Int.natAbs_sum_le _ f
    _ ≤ n * B := by simpa using Finset.sum_le_card_nsmul (Finset.range n) _ B fun i _ => h i

theorem sum_map_range_eq_zero {f : Nat → Int} {n : Nat} (h : ∀ i, i < n → f i = 0) :
    ((List.range n).map f).sum = 0 :=
  List.sum_eq_zero fun _ hx => by
    obtain ⟨i, hi, rfl⟩ := List.mem_map.mp hx
    exact h i (List.mem_range.mp hi)

/-! ### The encoder's helpers (R454) -/

/-- round_div by TW_ONE is the nearest integer, strictly: TW_ONE is odd, so no tie arises. -/
theorem roundDiv_nearest (a : Int) : 2 * (32767 * roundDiv a 32767 - a).natAbs < 32767 := by
  rcases lt_trichotomy a 0 with hneg | rfl | hpos
  · rw [roundDiv, Int.sign_eq_neg_one_of_neg hneg]
    omega
  · decide
  · rw [roundDiv, Int.sign_eq_one_of_pos hpos]
    omega

theorem roundDiv_mul_self (k : Int) : roundDiv (k * 32767) 32767 = k := by
  have hnear := roundDiv_nearest (k * 32767)
  omega

theorem natAbs_roundDiv_le {a : Int} {B : Nat} (h : a.natAbs ≤ B * 32767) : (roundDiv a 32767).natAbs ≤ B := by
  have hnear := roundDiv_nearest a
  omega

/-- A value of a Sample's size is neither saturated nor truncated. -/
theorem toInt_ofInt_sat16 {v : Int} (h : v.natAbs ≤ 32767) : (BitVec.ofInt 16 (sat16 v)).toInt = v := by
  have hsat : sat16 v = v := by unfold sat16; omega
  rw [hsat, BitVec.toInt_ofInt_eq_self (by decide) (by omega) (by omega)]

/-! ### Encode (R455) -/

theorem getD_encodeWindow {b : Build} {n : Nat} (bits : Multibit) (hn : n < b.N) :
    (encodeWindow b bits).getD n 0
      = BitVec.ofInt 16 (sat16 (roundDiv (b.encAmp * carrierSum b bits n) Config.twOne)) := by
  simp [encodeWindow, List.getD_eq_getElem?_getD, hn]

theorem natAbs_carrierSum_le {b : Build} (h : b.legal = true) (bits : Multibit) (n : Nat) :
    (carrierSum b bits n).natAbs ≤ b.F * 32767 := by
  refine natAbs_sum_map_range_le _ fun c => ?_
  split
  case isTrue => exact (natAbs_rom_le_of_legal h _).1
  case isFalse => exact Nat.zero_le _

/-- F * ENC_AMP ≤ 32767 (00_scope.md R11) leaves the quotient the size of a Sample. -/
theorem natAbs_roundDiv_carrierSum_le {b : Build} (h : b.legal = true) (bits : Multibit) (n : Nat) :
    (roundDiv (b.encAmp * carrierSum b bits n) 32767).natAbs ≤ 32767 := by
  obtain ⟨-, -, -, -, -, hlevels, -⟩ := b.legal_iff.mp h
  obtain ⟨-, hamp, -⟩ := b.legalLevels_iff.mp hlevels
  refine natAbs_roundDiv_le ?_
  rw [Int.natAbs_mul, Int.natAbs_natCast]
  calc b.encAmp * (carrierSum b bits n).natAbs
      ≤ b.encAmp * (b.F * 32767) := Nat.mul_le_mul_left _ (natAbs_carrierSum_le h bits n)
    _ = b.F * b.encAmp * 32767 := by ring
    _ ≤ 32767 * 32767 := Nat.mul_le_mul_right _ hamp

theorem toInt_getD_encodeWindow {b : Build} (h : b.legal = true) (bits : Multibit) {n : Nat} (hn : n < b.N) :
    ((encodeWindow b bits).getD n 0).toInt = roundDiv (b.encAmp * carrierSum b bits n) 32767 := by
  rw [getD_encodeWindow bits hn]
  exact toInt_ofInt_sat16 (natAbs_roundDiv_carrierSum_le h bits n)

theorem sum_active_carriers (bits : Multibit) (x : Int) :
    ((List.range bits.length).map fun c => if bits.getD c false then x else 0).sum = x * (bits.count true : Nat) := by
  induction bits with
  | nil => simp
  | cons bit bits ih =>
    rw [List.length_cons, List.range_succ_eq_map, List.map_cons, List.map_map, List.sum_cons]
    refine (congrArg (_ + ·) ih).trans ?_
    cases bit
    · simp
    · simp [mul_add, add_comm]

/-- At Sample 0 every active carrier is at its peak. -/
theorem carrierSum_zero {b : Build} {bits : Multibit} (h : b.legal = true) (hlen : bits.length = b.F) :
    carrierSum b bits 0 = 32767 * (bits.count true : Nat) := by
  simp only [carrierSum, mul_zero, Nat.zero_mod, cosAt_zero_of_legal h, ← hlen]
  exact sum_active_carriers bits 32767

/-- Settles O27: the quotients are in a Sample's range, round_div is the strict nearest integer, and at Sample 0 the sum
is a multiple of TW_ONE. -/
theorem encodeIsExact : Obligations.EncodeIsExact := by
  intro b bits h hlen
  refine ⟨length_encodeWindow b bits, fun n hn => toInt_getD_encodeWindow h bits hn, fun n hn => ?_, ?_⟩
  · rw [toInt_getD_encodeWindow h bits hn]
    exact roundDiv_nearest _
  · rw [toInt_getD_encodeWindow h bits (one_le_N_of_legal h), carrierSum_zero h hlen, mul_left_comm, mul_comm,
      roundDiv_mul_self]

/-! ### The silent Window (R462) -/

theorem encodeWindow_of_clear {b : Build} {bits : Multibit} (h : ∀ c, c < b.F → bits.getD c false = false) :
    encodeWindow b bits = silentWindow b := by
  have hsum (n : Nat) : carrierSum b bits n = 0 := sum_map_range_eq_zero fun c hc => by rw [h c hc, if_neg (by decide)]
  have hzero : BitVec.ofInt 16 (sat16 (roundDiv 0 Config.twOne)) = 0 := by decide
  simp [encodeWindow, silentWindow, hsum, hzero]

theorem getD_windowBits {b : Build} {frame : Memory} {idx c : Nat} (hc : c < b.F) :
    (windowBits b frame idx).getD c false = (frame.read (idx / 8 * b.F + c)).getLsbD (idx % 8) := by
  simp [windowBits, List.getD_eq_getElem?_getD, hc]

/-- Settles O28: Encode of clear bits is silent, and at position k a Multibyte sends bit k of its bytes. -/
theorem silentWindowIsTheZeroMultibit : Obligations.SilentWindowIsTheZeroMultibit := by
  refine ⟨fun _ => rfl, fun b => encodeWindow_of_clear fun c hc => by simp [hc], ?_⟩
  intro b frame m k dataWindows hk hdata hclear
  have hdiv : (8 * m + k) / 8 = m := by omega
  have hmod : (8 * m + k) % 8 = k := by omega
  rw [frameWindow, if_pos hdata]
  refine encodeWindow_of_clear fun c hc => ?_
  rw [getD_windowBits hc, hdiv, hmod, hclear c hc]

/-! ### Power and its widths (R457, R458, R460) -/

/-- The size of a tapered Sample: a taper of at most 2 * TW_ONE times a Sample of at most 2 ^ 15. -/
theorem natAbs_taperedSample_le {b : Build} (h : b.legal = true) (w : Window) (n : Nat) :
    (taperedSample b w n).natAbs ≤ 65534 * 32768 := by
  have hcos := (natAbs_rom_le_of_legal h n).1
  have htaper : (taper b n).natAbs ≤ 65534 := by
    simp only [taper, Config.twOne]
    omega
  rw [taperedSample, Int.natAbs_mul]
  exact Nat.mul_le_mul htaper (sampleAbs_le _)

/-- A sum of R458 over tapered Samples and entries of the ROM fits 63 signed bits. -/
theorem natAbs_sum_taperedSample_lt {b : Build} (h : b.legal = true) (w : Window) {rom : Nat → Int}
    (hrom : ∀ n, (rom n).natAbs ≤ 32767) :
    ((List.range b.N).map fun n => taperedSample b w n * rom n).sum.natAbs < 2 ^ 62 := by
  have hterm (n : Nat) : (taperedSample b w n * rom n).natAbs ≤ 65534 * 32768 * 32767 := by
    rw [Int.natAbs_mul]
    exact Nat.mul_le_mul (natAbs_taperedSample_le h w n) (hrom n)
  calc _ ≤ b.N * (65534 * 32768 * 32767) := natAbs_sum_map_range_le _ hterm
    _ ≤ 65536 * (65534 * 32768 * 32767) := Nat.mul_le_mul_right _ (N_le_of_legal h)
    _ < 2 ^ 62 := by norm_num

theorem natAbs_binReal_lt {b : Build} (h : b.legal = true) (w : Window) (k : Nat) : (binReal b w k).natAbs < 2 ^ 62 :=
  natAbs_sum_taperedSample_lt h w fun _ => (natAbs_rom_le_of_legal h _).1

theorem natAbs_binImag_lt {b : Build} (h : b.legal = true) (w : Window) (k : Nat) :
    (binImag b w k).natAbs < 2 ^ 62 := by
  rw [binImag, Int.natAbs_neg]
  exact natAbs_sum_taperedSample_lt h w fun _ => (natAbs_rom_le_of_legal h _).2

theorem power_lt {b : Build} (h : b.legal = true) (w : Window) (k : Nat) : power b w k < 2 ^ 125 :=
  calc power b w k
      < (2 ^ 62) ^ 2 + (2 ^ 62) ^ 2 := Nat.add_lt_add (Nat.pow_lt_pow_left (natAbs_binReal_lt h w k) two_ne_zero)
        (Nat.pow_lt_pow_left (natAbs_binImag_lt h w k) two_ne_zero)
    _ = 2 ^ 125 := by norm_num

/-- Power over the integers: the squares do not see the sign of IM. -/
theorem cast_power (b : Build) (w : Window) (k : Nat) : (power b w k : Int)
    = ((List.range b.N).map fun n => taperedSample b w n * b.cosAt (k * n % b.N)).sum ^ 2
      + ((List.range b.N).map fun n => taperedSample b w n * b.sinAt (k * n % b.N)).sum ^ 2 := by
  rw [power, Nat.cast_add, Nat.cast_pow, Nat.cast_pow, Int.natAbs_sq, Int.natAbs_sq, binReal, binImag, neg_sq]

/-- A side of a threshold inequality, its ratio's term at most 65535 (00_scope.md R11). -/
theorem threshold_side_lt {q p : Nat} (hq : q ≤ 65535) (hp : p < 2 ^ 125) : q * q * p < 2 ^ 157 :=
  calc q * q * p ≤ 65535 * 65535 * p := Nat.mul_le_mul_right _ (Nat.mul_le_mul hq hq)
    _ < 2 ^ 157 := by omega

/-- Settles O29: Power is its definition over the integers, and the bounds of the tapered Samples, the sums, their
squares and the ratios follow one from the other. -/
theorem datapathWidths : Obligations.DatapathWidths := by
  refine ⟨cast_power, fun b w k h => ?_⟩
  obtain ⟨-, -, -, -, -, -, hratios, -⟩ := b.legal_iff.mp h
  obtain ⟨-, hsp, hsq, -, hdp, hdq, -, hnp, hnq⟩ := b.legalRatios_iff.mp hratios
  have hpower := power_lt h w k
  exact ⟨fun n => (natAbs_taperedSample_le h w n).trans_lt (by norm_num), natAbs_binReal_lt h w k,
    natAbs_binImag_lt h w k, hpower, threshold_side_lt hsq hpower, threshold_side_lt (by omega) hpower,
    threshold_side_lt hdq hpower, threshold_side_lt (by omega) hpower, threshold_side_lt hnq hpower,
    threshold_side_lt (by omega) hpower⟩

/-! ### Windows without power (R458) -/

/-- Sample 0 has weight 0, so a Window with no other Sample has no tapered Sample. -/
theorem taperedSample_eq_zero {b : Build} {w : Window} (h : b.legal = true) (hw : ∀ n, 0 < n → w.getD n 0 = 0)
    (n : Nat) : taperedSample b w n = 0 := by
  rcases n.eq_zero_or_pos with rfl | hn
  · simp [taperedSample, taper, cosAt_zero_of_legal h, Config.twOne]
  · rw [taperedSample, hw n hn, show (0 : Sample).toInt = 0 from rfl, mul_zero]

theorem power_eq_zero {b : Build} {w : Window} (h : ∀ n, taperedSample b w n = 0) (k : Nat) : power b w k = 0 := by
  simp [power, binReal, binImag, h]

theorem decodeMultibit_of_powerless {b : Build} {w : Window} (h : ∀ k, power b w k = 0) (cal : List Nat) :
    decodeMultibit b w cal = List.replicate b.F false := by
  simp [decodeMultibit, h]

/-- A carrier without power fails the strict inequality, and a legal build has a carrier. -/
theorem carrierTest_of_powerless {b : Build} {w : Window} (hF : 1 ≤ b.F) (h : ∀ k, power b w k = 0) :
    carrierTest b w = false := by
  rw [← Bool.not_eq_true]
  intro htest
  have hmem : power b w (carrierBin b 0) ∈ carrierPowers b w := List.mem_map_of_mem (List.mem_range.mpr hF)
  exact (carrierPowers_pos htest _ hmem).ne' (h _)

/-- Settles O30: no tapered Sample, so no power, and without power no test is passed. -/
theorem powerlessWindows : Obligations.PowerlessWindows := by
  intro b w h hw
  have hpower := power_eq_zero (taperedSample_eq_zero h hw)
  refine ⟨hpower, decodeMultibit_of_powerless hpower, fun nf => ?_⟩
  rw [sigCheck, carrierTest_of_powerless (one_le_F_of_legal h) hpower, Bool.false_and]

/-! ### The window maximum and the threshold tests (R459, R461, R463, R464) -/

theorem mem_bins_iff {b : Build} {k : Nat} : k ∈ b.bins ↔ 1 ≤ k ∧ k < b.N / 2 := by
  rw [Build.bins, List.mem_range'_1]
  omega

/-- WMAX is the maximum of the powers over BINS and of 0, the maximum's start value. -/
theorem windowMax_isMax (b : Build) (w : Window) :
    windowMax b w ∈ 0 :: b.bins.map (power b w) ∧ ∀ p ∈ 0 :: b.bins.map (power b w), p ≤ windowMax b w :=
  List.max?_eq_some_iff.mp List.max?_cons'

theorem power_le_windowMax {b : Build} {k : Nat} (w : Window) (hk : k ∈ b.bins) : power b w k ≤ windowMax b w :=
  (windowMax_isMax b w).2 _ (List.mem_cons_of_mem _ (List.mem_map_of_mem hk))

theorem exists_power_eq_windowMax {b : Build} (h : b.legal = true) (w : Window) :
    ∃ k ∈ b.bins, windowMax b w = power b w k := by
  rcases List.mem_cons.mp (windowMax_isMax b w).1 with hzero | hmem
  · have hone : 1 ∈ b.bins := mem_bins_iff.mpr ⟨le_rfl, two_le_half_N_of_legal h⟩
    have hle := power_le_windowMax w hone
    exact ⟨1, hone, by omega⟩
  · obtain ⟨k, hk, heq⟩ := List.mem_map.mp hmem
    exact ⟨k, hk, heq.symm⟩

/-- R459: squaring turns the comparison of magnitudes into the one of powers. -/
theorem ratio_mul_sqrt_lt_sqrt_iff {p q x y : Nat} (hq : 0 < q) :
    (p / q : ℝ) * √(x : ℝ) < √(y : ℝ) ↔ p * p * x < q * q * y := by
  have hscale (r z : Nat) : (r : ℝ) * √(z : ℝ) = √((r * r * z : Nat) : ℝ) := by
    rw [Nat.cast_mul, Nat.cast_mul, Real.sqrt_mul (by positivity), Real.sqrt_mul_self (by positivity)]
  rw [div_mul_eq_mul_div, div_lt_iff₀ (by positivity), mul_comm √(y : ℝ), hscale, hscale,
    Real.sqrt_lt_sqrt_iff (by positivity), Nat.cast_lt]

theorem sqrt_le_ratio_mul_sqrt_iff {p q x y : Nat} (hq : 0 < q) :
    √(y : ℝ) ≤ (p / q : ℝ) * √(x : ℝ) ↔ q * q * y ≤ p * p * x := by
  rw [← not_lt, ratio_mul_sqrt_lt_sqrt_iff hq, not_lt]

theorem getD_decodeMultibit {b : Build} {c : Nat} (w : Window) (cal : List Nat) (hc : c < b.F) :
    (decodeMultibit b w cal).getD c false
      = decide (b.dp * b.dp * cal.getD c 0 < b.dq * b.dq * power b w (carrierBin b c)) := by
  simp [decodeMultibit, List.getD_eq_getElem?_getD, hc]

theorem carrierTest_iff {b : Build} {w : Window} : carrierTest b w = true ↔
    ∀ c, c < b.F → b.sp * b.sp * windowMax b w < b.sq * b.sq * power b w (carrierBin b c) := by
  simp [carrierTest, carrierPowers]

theorem noiseOk_iff {b : Build} {w : Window} : noiseOk b w = true ↔
    ∀ k, 1 ≤ k → k < b.N / 2 → k ∉ b.freq → b.nq * b.nq * power b w k ≤ b.np * b.np * windowMax b w := by
  simp [noiseOk, Build.otherBins, mem_bins_iff, or_iff_not_imp_left]

/-- Settles O31: WMAX is the maximum over BINS, and each test is R459's comparison, strict or not. -/
theorem thresholdTestsCompareMagnitudes : Obligations.ThresholdTestsCompareMagnitudes := by
  intro b w h
  obtain ⟨-, -, -, -, -, -, hratios, -⟩ := b.legal_iff.mp h
  obtain ⟨-, hsp, -, -, hdp, -, hnp, hnpq, -⟩ := b.legalRatios_iff.mp hratios
  refine ⟨fun k h1 hk => power_le_windowMax w (mem_bins_iff.mpr ⟨h1, hk⟩), ?_, fun cal c hc => ?_, ?_, ?_⟩
  · obtain ⟨k, hk, heq⟩ := exists_power_eq_windowMax h w
    obtain ⟨h1, hlt⟩ := mem_bins_iff.mp hk
    exact ⟨k, h1, hlt, heq⟩
  · rw [getD_decodeMultibit w cal hc, decide_eq_true_iff, ratio_mul_sqrt_lt_sqrt_iff (by omega), carrierBin]
  · simp only [carrierTest_iff, ratio_mul_sqrt_lt_sqrt_iff (show 0 < b.sq by omega), carrierBin]
  · simp only [noiseOk_iff, sqrt_le_ratio_mul_sqrt_iff (show 0 < b.nq by omega)]

end Sys2Proof.Machine

/-! The statements of 43_sync_calibration.md: SyncStep, Synchronized, Reject, what changes THR, and the two receivers that
stay in SCANNING, the deaf one and the one that hears silence. -/

namespace Sys2Proof.Machine

/-! ### The Window that SyncStep reads (R504, 46_receiver.md R654) -/

/-- Sample `n` is bytes 2n and 2n + 1, low byte first (30_encoding.md R302). -/
theorem getD_windowOfBytes {bytes : List Byte} {n : Nat} (h : 2 * n + 1 < bytes.length) :
    (windowOfBytes bytes).getD n 0 = sampleOfBytes (bytes.getD (2 * n) 0) (bytes.getD (2 * n + 1) 0) := by
  induction bytes using windowOfBytes.induct generalizing n with
  | case1 low high rest ih =>
    cases n with
    | zero => rfl
    | succ n => exact ih (by simp only [List.length_cons] at h; omega)
  | case2 bytes hshort =>
    match bytes, hshort with
    | low :: high :: rest, hshort => exact absurd rfl (hshort low high rest)

theorem Stream.getD_oldest {cap n i : Nat} (s : Stream) (hi : i < n) :
    (s.oldest cap n).getD i 0 = s.buf.read ((s.rd + i) % cap) := by
  simp [Stream.oldest, List.getD_eq_getElem?_getD, hi]

theorem length_restOfWindow (s : State) :
    (windowOfBytes (s.rxs.oldest s.build.rxsBytes ((s.build.N - s.wfill) * Config.sampleBytes))).length
      = s.build.N - s.wfill :=
  length_windowOfBytes _ _ (by rw [Stream.length_oldest, Config.sampleBytes, Nat.mul_comm])

/-- Where WBUF has N Samples, WFILL of them held, so has the Window read. -/
theorem length_nextWindow_of_le {s : State} (hfill : s.wfill ≤ s.build.N) (hwbuf : s.wbuf.length = s.build.N) :
    (nextWindow s).length = s.build.N := by
  rw [nextWindow, List.length_append, List.length_take, length_restOfWindow]
  omega

/-- The Window begins with the Samples held. -/
theorem getD_nextWindow_held {s : State} {n : Nat} (hn : n < s.wfill) (hlen : s.wfill ≤ s.wbuf.length) :
    (nextWindow s).getD n 0 = s.wbuf.getD n 0 := by
  rw [nextWindow, List.getD_append _ _ _ _ (by rw [List.length_take]; omega)]
  simp [List.getD_eq_getElem?_getD, hn]

/-- Behind them stand the next Samples of RXS. -/
theorem getD_nextWindow_read {s : State} {n : Nat} (hn : n < s.build.N - s.wfill) (hlen : s.wfill ≤ s.wbuf.length) :
    (nextWindow s).getD (s.wfill + n) 0 = sampleOfBytes (s.rxs.buf.read ((s.rxs.rd + 2 * n) % s.build.rxsBytes))
      (s.rxs.buf.read ((s.rxs.rd + (2 * n + 1)) % s.build.rxsBytes)) := by
  have hheld : (s.wbuf.take s.wfill).length = s.wfill := by rw [List.length_take]; omega
  have hneed : 2 * n + 1 < (s.build.N - s.wfill) * Config.sampleBytes := by rw [Config.sampleBytes]; omega
  rw [nextWindow, List.getD_append_right _ _ _ _ (by omega), hheld, Nat.add_sub_cancel_left,
    getD_windowOfBytes (by rwa [Stream.length_oldest]), Stream.getD_oldest _ (by omega), Stream.getD_oldest _ hneed]

/-! ### SyncStep (R506, R507) -/

theorem sigCheck_iff {b : Build} {nf : Bool} {w : Window} :
    sigCheck b nf w = true ↔ carrierTest b w = true ∧ (nf = false ∨ noiseOk b w = true) := by
  simp [sigCheck]

theorem engineStep_syncing {s : State} (hbusy : s.busy = true) (hcurop : s.curop = .receive)
    (hst : s.rxst = .syncing) : engineStep s = withWindow s syncWindow := by
  simp only [engineStep, if_pos hbusy, hcurop, receiveStep, hst, syncStep]

theorem syncWindow_of_fail {w : Window} {s : State} (h : sigCheck s.build s.nfSyncEn w = false) :
    syncWindow w s = rejectSignature s := by
  rw [syncWindow, h]
  rfl

theorem syncWindow_of_pass {w : Window} {s : State} (h : sigCheck s.build s.nfSyncEn w = true)
    (hlt : s.rwidx.toNat < 7) : syncWindow w s = { s with rwidx := s.rwidx + 1 } := by
  rw [syncWindow, if_pos h, if_pos hlt]

theorem syncWindow_of_last {w : Window} {s : State} (h : sigCheck s.build s.nfSyncEn w = true)
    (hlast : s.rwidx.toNat = 7) : syncWindow w s = synchronized w s := by
  rw [syncWindow, if_pos h, if_neg hlast.not_lt]

/-- Settles O33: the Window is `nextWindow`, the state once it is read `afterWindow`, and SyncStep is `syncWindow` on
them. -/
theorem syncStepTestsOneWindow : Obligations.SyncStepTestsOneWindow := by
  refine ⟨fun _ _ _ => sigCheck_iff, fun s hbusy hcurop hst => ?_⟩
  rw [engineStep_syncing hbusy hcurop hst]
  refine ⟨fun hshort => withWindow_short syncWindow hshort, fun henough hfill hwbuf => ?_⟩
  have hlen : s.wfill ≤ s.wbuf.length := hfill.trans hwbuf.ge
  rw [withWindow_enough syncWindow henough]
  exact ⟨nextWindow s, afterWindow s, length_nextWindow_of_le hfill hwbuf, fun n hn => getD_nextWindow_held hn hlen,
    fun n hn => getD_nextWindow_read hn hlen, rfl, fun hfail => congrArg _ (syncWindow_of_fail hfail),
    fun hpass hlt => congrArg _ (syncWindow_of_pass hpass hlt),
    fun hpass hlast => congrArg _ (syncWindow_of_last hpass hlast)⟩

/-! ### Synchronized and Reject (R508, R509) -/

theorem getD_carrierPowers {b : Build} {c : Nat} (w : Window) (hc : c < b.F) :
    (carrierPowers b w).getD c 0 = power b w (b.freq.getD c 0) := by
  simp [carrierPowers, carrierBin, List.getD_eq_getElem?_getD, hc]

/-- TRIGGER_LEVEL fits THR's 17 bits, since a legal build has it at most 32767 (00_scope.md R11). -/
theorem toNat_baseThreshold_eq {b : Build} (h : b.legal = true) : (baseThreshold b).toNat = b.triggerLevel := by
  obtain ⟨-, -, -, -, -, hlevels, -⟩ := b.legal_iff.mp h
  obtain ⟨-, -, hlevel⟩ := b.legalLevels_iff.mp hlevels
  rw [baseThreshold, BitVec.toNat_ofNat]
  omega

/-- Settles O34: the calibration is positive because the Window passed CarrierTest. -/
theorem synchronizedCalibrates : Obligations.SynchronizedCalibrates := by
  rintro s _ w hlegal hcheck rfl
  obtain ⟨htest, -⟩ := sigCheck_iff.mp hcheck
  refine ⟨rfl, toNat_baseThreshold_eq hlegal, length_carrierPowers _ _, fun c hc => ⟨getD_carrierPowers w hc, ?_⟩,
    read_signature s.build.F, Memory.wf_ofBytes _⟩
  have hmem : c < (carrierPowers s.build w).length := by rwa [length_carrierPowers]
  rw [synchronized_cal, List.getD_eq_getElem _ _ hmem]
  exact carrierPowers_pos htest _ (List.getElem_mem hmem)

/-- Twice VTRIG fits THR's 17 bits. -/
theorem toNat_thr_rejectSignature {s : State} (h : s.adaptEn = true) :
    (rejectSignature s).thr.toNat = 2 * s.vtrig.toNat := by
  rw [rejectSignature_thr, if_pos h, BitVec.toNat_shiftLeft, BitVec.toNat_setWidth, Nat.shiftLeft_eq]
  omega

theorem thr_rejectSignature_of_fixed {s : State} (h : s.adaptEn = false) : (rejectSignature s).thr = s.thr := by
  rw [rejectSignature_thr, if_neg (ne_true_of_eq_false h)]

/-- Settles O35: the counter is 32 bits wide, and THR doubles VTRIG without overflow. -/
theorem rejectReturnsToScanning : Obligations.RejectReturnsToScanning := by
  rintro s _ rfl
  exact ⟨rfl, BitVec.toNat_add _ _, toNat_thr_rejectSignature, thr_rejectSignature_of_fixed⟩

/-! ### What a turn does to RXS, RXST and THR -/

/-- RXS, RXST, THR and the build are the same in both states. -/
def SameReceiver (s t : State) : Prop := t.rxs = s.rxs ∧ t.rxst = s.rxst ∧ t.thr = s.thr ∧ t.build = s.build

/-- What a turn can do to the receiver, with the turn that does it: `TurnTo` seen from RXS, RXST and THR. -/
inductive ReceiverTurn (s : State) : Action → State → Prop where
  | same {a : Action} {t : State} : SameReceiver s t → ReceiverTurn s a t
  | receive {a : Action} {t : State} : receiveNeed s ≤ s.rxs.cnt → ReceiveTo s t → ReceiverTurn s a t
  | audioIn (data : List Byte) : data.length % 2 = 0 →
      ReceiverTurn s (.audioIn data) { s with rxs := s.rxs.write s.build.rxsBytes data }
  | policies (v : Word) : s.busy = false → ReceiverTurn s (.busWrite 32 0x000#12 v) { s with
      nfSyncEn := v.getLsbD 0, nfDecEn := v.getLsbD 1, adaptEn := v.getLsbD 2, thr := baseThreshold s.build }
  | reset (ok : Bool) : ReceiverTurn s (.reset ok) (resetEvent ok s)

theorem SameReceiver.refl (s : State) : SameReceiver s s := ⟨rfl, rfl, rfl, rfl⟩

theorem emitWindow_sameReceiver (s : State) : SameReceiver s (emitWindow s) := by
  rcases emitWindow_cases s with ⟨-, h⟩ | ⟨-, -, h⟩ | ⟨-, -, h⟩ <;> rw [h] <;> exact ⟨rfl, rfl, rfl, rfl⟩

theorem receiveStep_receiverTurn {s t : State} (a : Action) (h : receiveStep s = .next t) : ReceiverTurn s a t := by
  rcases receiveStep_cases s with ⟨-, hs⟩ | ⟨hneed, ⟨hst, hs⟩ | ⟨hst, hs⟩ | ⟨hst, hs⟩ | ⟨hst, hs⟩⟩ <;>
    obtain rfl := Host.Outcome.next.inj (hs.symm.trans h)
  · exact .same ⟨rfl, rfl, rfl, rfl⟩
  · exact .receive hneed (scanSample_receiveTo hst)
  · exact .receive hneed (syncWindow_receiveTo hst)
  · exact .receive hneed (decodeWindow_receiveTo hst)
  · exact .receive hneed (validateStep_receiveTo hst)

theorem engineStep_receiverTurn {s t : State} (h : engineStep s = .next t) : ReceiverTurn s .engine t := by
  rcases engineStep_cases s with ⟨-, hs⟩ | ⟨-, -, hs⟩ | ⟨-, -, hs⟩ <;> rw [hs] at h
  · obtain rfl := Host.Outcome.next.inj h
    exact .same (.refl s)
  · obtain rfl := Host.Outcome.next.inj h
    exact .same (emitWindow_sameReceiver s)
  · exact receiveStep_receiverTurn .engine h

theorem acceptCommand_sameReceiver {issue : State → State} {s : State} (h : SameReceiver s (issue s)) :
    SameReceiver s (acceptCommand issue s) := by
  rcases acceptCommand_cases issue s with ⟨-, heq⟩ | ⟨-, -, heq⟩ | ⟨-, -, heq⟩ <;> rw [heq]
  · exact .refl s
  · exact .refl s
  · exact h

theorem cmdWrite_sameReceiver {v : Word} {s t : State} (h : cmdWrite v s = .next t) : SameReceiver s t := by
  unfold cmdWrite at h
  split at h
  case h_1 i _ =>
    cases i <;>
      (obtain rfl := Host.Outcome.next.inj h
       exact acceptCommand_sameReceiver ⟨rfl, rfl, rfl, rfl⟩)
  case h_2 =>
    obtain rfl := Host.Outcome.next.inj h
    unfold illegalCommand
    split <;> exact ⟨rfl, rfl, rfl, rfl⟩

theorem writeRegister_sameReceiver {v : Word} {s t : State} {r : Register} (hr : r ≠ .ctrl)
    (h : writeRegister v s r = .next t) : SameReceiver s t := by
  cases r with
  | ctrl => exact absurd rfl hr
  | cmd => exact cmdWrite_sameReceiver h
  | status =>
    obtain rfl := Host.Outcome.next.inj h
    rw [statusWrite_eq]
    exact ⟨rfl, rfl, rfl, rfl⟩
  | _ =>
    obtain rfl := Host.Outcome.next.inj h
    exact ⟨rfl, rfl, rfl, rfl⟩

/-- Low register `i` is at offset 4i only, and reached by 32-bit transactions only (10_state.md R110). -/
theorem offset_of_busTarget_low {width : Nat} {off : Offset} {r : Register} {i : Nat}
    (h : busTarget width off = some r) (hi : lowRegisters[i]? = some r) : width = 32 ∧ off.toNat = 4 * i := by
  obtain ⟨hlen, -⟩ := List.getElem?_eq_some_iff.mp hi
  have hmem := List.mem_of_getElem? hi
  unfold busTarget registerAt at h
  dsimp only at h
  split_ifs at h with hwidth haligned hlow htxbuf hrxbuf
  · have hindex := (List.getElem?_inj hlen (by decide)).mp (hi.trans h.symm)
    exact ⟨hwidth, by omega⟩
  · obtain rfl := Option.some.inj h
    simp [lowRegisters] at hmem
  · obtain rfl := Option.some.inj h
    simp [lowRegisters] at hmem

/-- CTRL is at offset 0x000 only, and reached by 32-bit transactions only (10_state.md R110, R111). -/
theorem eq_of_busTarget_ctrl {width : Nat} {off : Offset} (h : busTarget width off = some .ctrl) :
    width = 32 ∧ off = 0x000#12 :=
  (offset_of_busTarget_low (i := 0) h rfl).imp_right BitVec.eq_of_toNat_eq

theorem ctrlWrite_of_idle {v : Word} {s : State} (h : s.busy = false) : ctrlWrite v s = { s with
    nfSyncEn := v.getLsbD 0, nfDecEn := v.getLsbD 1, adaptEn := v.getLsbD 2, thr := baseThreshold s.build } := by
  rw [ctrlWrite, if_neg (ne_true_of_eq_false h)]

theorem ctrlWrite_receiverTurn (v : Word) (s : State) :
    ReceiverTurn s (.busWrite 32 0x000#12 v) (ctrlWrite v s) := by
  cases hbusy : s.busy with
  | true =>
    rw [ctrlWrite, if_pos hbusy]
    exact .same (.refl s)
  | false =>
    rw [ctrlWrite_of_idle hbusy]
    exact .policies v hbusy

theorem busWrite_receiverTurn {width : Nat} {off : Offset} {v : Word} {s t : State}
    (h : busWrite width off v s = .next t) : ReceiverTurn s (.busWrite width off v) t := by
  cases htarget : busTarget width off with
  | none =>
    rw [busWrite, htarget] at h
    obtain rfl := Host.Outcome.next.inj h
    exact .same ⟨rfl, rfl, rfl, rfl⟩
  | some r =>
    rw [busWrite_of_target htarget] at h
    by_cases hr : r = .ctrl
    · subst hr
      obtain ⟨rfl, rfl⟩ := eq_of_busTarget_ctrl htarget
      obtain rfl := Host.Outcome.next.inj h
      exact ctrlWrite_receiverTurn v s
    · exact .same (writeRegister_sameReceiver hr h)

theorem audioIn_receiverTurn (data : List Byte) (s : State) : ReceiverTurn s (.audioIn data) (audioIn data s) := by
  unfold audioIn
  split
  · split
    case isTrue heven => exact .audioIn data heven
    case isFalse => exact .same ⟨rfl, rfl, rfl, rfl⟩
  · exact .same (.refl s)

theorem audioOut_sameReceiver {n : Nat} {s t : State} (h : audioOut n s = .next t) : SameReceiver s t := by
  unfold audioOut at h
  rw [Stream.read_of_le (Nat.min_le_right _ _)] at h
  split_ifs at h <;>
    (obtain rfl := Host.Outcome.next.inj h
     exact ⟨rfl, rfl, rfl, rfl⟩)

theorem perform_receiverTurn {a : Action} {s t : State} (h : perform a s = .next t) : ReceiverTurn s a t := by
  cases a with
  | busRead width off =>
    obtain rfl := Host.Outcome.next.inj h
    rw [busRead_eq]
    exact .same ⟨rfl, rfl, rfl, rfl⟩
  | busWrite width off v => exact busWrite_receiverTurn h
  | engine => exact engineStep_receiverTurn h
  | audioIn data =>
    obtain rfl := Host.Outcome.next.inj h
    exact audioIn_receiverTurn data s
  | audioOut n => exact .same (audioOut_sameReceiver h)
  | reset ok =>
    obtain rfl := Host.Outcome.next.inj h
    exact .reset ok

/-- A step is a turn of a legal build: the schedule's next, or the ENGINE's. -/
theorem step_receiverTurn {s t : State} (h : step s = .next t) : s.build.legal = true ∧
    ∃ a rest, (s.schedule = a :: rest ∨ a = .engine) ∧ ReceiverTurn { s with schedule := rest } a t := by
  cases hlegal : s.build.legal with
  | false => rw [step_of_illegal hlegal] at h; cases h
  | true =>
    rw [step_of_legal hlegal] at h
    refine ⟨rfl, ?_⟩
    rcases takeTurn_cases s with ⟨-, hturn⟩ | ⟨a, rest, hschedule, hturn⟩ <;> rw [hturn] at h
    · exact ⟨.engine, s.schedule, .inr rfl, engineStep_receiverTurn h⟩
    · exact ⟨a, rest, .inl hschedule, perform_receiverTurn h⟩

/-! ### What changes THR (R510) -/

/-- Of the micro-steps of RECEIVE, Synchronized and Reject with the adaptive trigger change THR. -/
theorem ReceiveTo.thr_cases {s t : State} (h : ReceiveTo s t) :
    t.thr = s.thr
      ∨ (s.rxst = .syncing ∧ t.rxst = .header ∧ t.thr = baseThreshold s.build)
      ∨ (s.rxst = .syncing ∧ t.rxst = .scanning ∧ s.adaptEn = true ∧ t.sigrej = s.sigrej + 1
          ∧ t.thr.toNat = 2 * s.vtrig.toNat) := by
  cases h with
  | synchronized hst => exact .inr (.inl ⟨hst, rfl, rfl⟩)
  | reject hst =>
    cases hadapt : s.adaptEn with
    | true => exact .inr (.inr ⟨hst, rfl, rfl, rfl, toNat_thr_rejectSignature (s := afterWindow s) hadapt⟩)
    | false => exact .inl (thr_rejectSignature_of_fixed (s := afterWindow s) hadapt)
  | _ => exact .inl rfl

/-- Settles O36: the three settings are THR's base value, and of all turns only a CTRL write that takes effect, a reset
and the two micro-steps of `ReceiveTo.thr_cases` change it. -/
theorem thresholdChangesOnlyByItsRules : Obligations.ThresholdChangesOnlyByItsRules := by
  refine ⟨fun _ _ => rfl, fun _ _ => rfl, fun s t v hidle h => ?_, fun s t hstep hchanged => ?_⟩
  · rw [busWrite_of_target (r := .ctrl) rfl] at h
    obtain rfl := Host.Outcome.next.inj h
    rw [ctrlWrite_of_idle hidle]
    rfl
  · obtain ⟨-, a, rest, hnext, hturn⟩ := step_receiverTurn hstep
    cases hturn with
    | same hsame =>
      obtain ⟨-, -, hthr, -⟩ := hsame
      exact absurd hthr hchanged
    | receive _ hto => exact .inr (.inr (hto.thr_cases.resolve_left hchanged))
    | audioIn => exact absurd rfl hchanged
    | policies v hidle => exact .inr (.inl ⟨v, rest, hnext.resolve_right nofun, hidle⟩)
    | reset ok => exact .inl ⟨ok, rest, hnext.resolve_right nofun⟩

/-! ### Receivers that stay in SCANNING (R513, R514) -/

/-- From SCANNING a micro-step of RECEIVE only takes a Sample, unless the Sample triggers. -/
theorem ReceiveTo.eq_afterSample {s t : State} (h : ReceiveTo s t) (hst : s.rxst = .scanning)
    (hquiet : triggers s.thr (scannedSample s) = false) : t = afterSample s := by
  cases h with
  | scan => rfl
  | trigger _ hloud => rw [hquiet] at hloud; cases hloud
  | nextSignature h' | synchronized h' | reject h' | abort h' | nextBit h' | complete h' | deliver h' | mismatch h' =>
    simp [hst] at h'

/-- No Sample's magnitude exceeds 32768 (R502). -/
theorem triggers_of_deaf {thr : BitVec 17} (h : 32768 ≤ thr.toNat) (v : Sample) : triggers thr v = false :=
  decide_eq_false ((sampleAbs_le v).trans h).not_gt

/-- Settles O37: a deaf receiver's micro-steps only take Samples, and of the other turns a reset and a CTRL write alone
reach THR or RXST. -/
theorem adaptiveDeafness : Obligations.AdaptiveDeafness := by
  refine ⟨fun s hadapt hloud => ?_, fun thr v h => triggers_of_deaf h v, fun s t hst hdeaf hstep => ?_⟩
  · rw [toNat_thr_rejectSignature hadapt]
    omega
  · obtain ⟨-, a, rest, hnext, hturn⟩ := step_receiverTurn hstep
    cases hturn with
    | same hsame =>
      obtain ⟨-, hrxst, hthr, -⟩ := hsame
      exact .inl ⟨hrxst.trans hst, hthr⟩
    | receive _ hto =>
      obtain rfl := hto.eq_afterSample hst (triggers_of_deaf hdeaf _)
      exact .inl ⟨hst, rfl⟩
    | audioIn => exact .inl ⟨hst, rfl⟩
    | policies v => exact .inr (.inl ⟨v, rest, hnext.resolve_right nofun⟩)
    | reset ok => exact .inr (.inr ⟨ok, rest, hnext.resolve_right nofun⟩)

/-- RXS holds only zero bytes. -/
def Silent (s : State) : Prop := ∀ x ∈ s.rxs.contents s.build.rxsBytes, x = 0

/-- The Sample that ScanStep reads from a silent RXS is 0. -/
theorem Silent.scannedSample_eq {s : State} (h : Silent s) (hcnt : Config.sampleBytes ≤ s.rxs.cnt) :
    scannedSample s = 0 := by
  have hzero : s.rxs.oldest s.build.rxsBytes Config.sampleBytes = List.replicate Config.sampleBytes 0 := by
    rw [List.eq_replicate_iff, Stream.length_oldest]
    refine ⟨rfl, fun x hx => h x ?_⟩
    rw [Stream.oldest_eq_take hcnt] at hx
    exact List.mem_of_mem_take hx
  rw [scannedSample, hzero]
  rfl

theorem triggers_zero (thr : BitVec 17) : triggers thr 0 = false :=
  decide_eq_false (Nat.not_lt_zero _)

theorem Silent.afterSample {s : State} (h : Silent s) : Silent (afterSample s) := by
  intro x hx
  have hcontents := Stream.contents_advance s.build.rxsBytes Config.sampleBytes s.rxs
  exact h x (List.mem_of_mem_drop (hcontents ▸ hx))

/-- Settles O38: the Sample read is 0 and triggers at no THR, what is left of RXS is silent, and so is what CAPTURE adds
to it. -/
theorem silenceNeverTriggers : Obligations.SilenceNeverTriggers := by
  intro s t hstreams hst hsilent hcapture hstep
  obtain ⟨hlegal, a, rest, hnext, hturn⟩ := step_receiverTurn hstep
  have hrest : Silent { s with schedule := rest } := hsilent
  cases hturn with
  | same hsame =>
    obtain ⟨hrxs, hrxst, -, hbuild⟩ := hsame
    rw [hrxs, hrxst, hbuild]
    exact ⟨hst, hsilent⟩
  | receive hneed hto =>
    have hcnt : Config.sampleBytes ≤ s.rxs.cnt := by simpa [receiveNeed, hst] using hneed
    obtain rfl := hto.eq_afterSample hst (by rw [hrest.scannedSample_eq hcnt]; exact triggers_zero _)
    exact ⟨hst, hrest.afterSample⟩
  | audioIn data heven =>
    obtain ⟨⟨hrx, -⟩, -⟩ := capacities_of_legal hlegal
    obtain ⟨hrxs, -⟩ := hstreams
    refine ⟨hst, fun x hx => ?_⟩
    rw [hrxs.contents_write hrx heven] at hx
    exact (List.mem_append.mp (List.mem_of_mem_drop hx)).elim (hsilent x)
      (hcapture data rest (hnext.resolve_right nofun) x)
  | policies => exact ⟨hst, hsilent⟩
  | reset => exact ⟨rfl, fun x hx => by cases hx⟩

end Sys2Proof.Machine

/-! The statements of 44_framing.md: where each field of a built Frame stands, and the digest check that reads them back. -/

namespace Sys2Proof.Machine

/-! ### The fields of a Frame (R551, R554) -/

theorem frameByte_signature {b : Build} {p : List Byte} {size i : Nat} {h : BitVec 16} (hi : i < b.F) :
    frameByte b p size h i = 0xFF := if_pos hi

@[simp] theorem frameByte_size (b : Build) (p : List Byte) (size : Nat) (h : BitVec 16) :
    frameByte b p size h b.F = BitVec.ofNat 8 size := by simp [frameByte]

@[simp] theorem frameByte_hashLow (b : Build) (p : List Byte) (size : Nat) (h : BitVec 16) :
    frameByte b p size h (b.F + 1) = h.extractLsb' 0 8 := by simp [frameByte]

@[simp] theorem frameByte_hashHigh (b : Build) (p : List Byte) (size : Nat) (h : BitVec 16) :
    frameByte b p size h (b.F + 2) = h.extractLsb' 8 8 := by simp [frameByte]

theorem frameByte_payload {b : Build} {p : List Byte} {size i : Nat} {h : BitVec 16} (hi : i < size) :
    frameByte b p size h (b.F + 3 + i) = p.getD i 0 := by
  have hpast : ¬ b.F + 3 + i < b.F ∧ b.F + 3 + i ≠ b.F ∧ b.F + 3 + i ≠ b.F + 1 ∧ b.F + 3 + i ≠ b.F + 2 := by omega
  simp [frameByte, Build.headerBytes, hpast, hi]

theorem frameByte_padding {b : Build} {p : List Byte} {size i : Nat} {h : BitVec 16} (hi : b.F + 3 + size ≤ i) :
    frameByte b p size h i = 0 := by
  have hpast : ¬ i < b.F ∧ i ≠ b.F ∧ i ≠ b.F + 1 ∧ i ≠ b.F + 2 ∧ ¬ i < b.F + 3 + size := by omega
  simp [frameByte, Build.headerBytes, hpast]

/-- A Frame has less than one Multibyte of padding (30_encoding.md R305). -/
theorem frame_lt_header_add_payload_add_multibyte {b : Build} (hF : 1 ≤ b.F) (size : Nat) :
    b.multibytes size * b.F < b.headerBytes + size + b.F := by
  have h := Nat.div_mul_le_self (b.headerBytes + size + b.F - 1) b.F
  rw [Build.multibytes]
  omega

/-- Every byte of a whole payload's Frame is `frameByte`'s, the bytes past its end, which read 0, among them. -/
theorem getD_buildFrame_length {b : Build} (hF : 1 ≤ b.F) (p : List Byte) (i : Nat) :
    (buildFrame b p p.length).getD i 0 = frameByte b p p.length (hash16 b.digest p) i := by
  by_cases hi : i < b.multibytes p.length * b.F
  · rw [getD_buildFrame hi, List.take_length]
  · have hfits := header_add_payload_le_frame hF p.length
    rw [Build.headerBytes] at hfits
    rw [frameByte_padding (by omega), List.getD_eq_default _ _ (by rw [length_buildFrame]; omega)]

/-! ### Hash16 (R552) -/

theorem hash16_eq_append (digest : DigestFn) (p : List Byte) :
    hash16 digest p = (digestOf digest p)[1] ++ (digestOf digest p)[0] := rfl

@[simp] theorem hash16_lowByte (digest : DigestFn) (p : List Byte) :
    (hash16 digest p).extractLsb' 0 8 = (digestOf digest p)[0] :=
  BitVec.extractLsb'_append_eq_right

@[simp] theorem hash16_highByte (digest : DigestFn) (p : List Byte) :
    (hash16 digest p).extractLsb' 8 8 = (digestOf digest p)[1] :=
  BitVec.extractLsb'_append_eq_left

/-- Hash16 in R552's own form: D[0] in the low byte, D[1] shifted above it. -/
theorem hash16_eq_or_shiftLeft (digest : DigestFn) (p : List Byte) :
    hash16 digest p = (digestOf digest p)[0].setWidth 16 ||| (digestOf digest p)[1].setWidth 16 <<< 8 := by
  rw [hash16_eq_append, BitVec.append_def]
  simp [BitVec.shiftLeftZeroExtend_eq, BitVec.or_comm]

/-- Hash16 is a hash field exactly where its bytes are the field's bytes. -/
theorem hash16_eq_append_iff {digest : DigestFn} {p : List Byte} {hi lo : Byte} :
    hash16 digest p = hi ++ lo ↔ (digestOf digest p)[0] = lo ∧ (digestOf digest p)[1] = hi := by
  refine ⟨fun h => ?_, fun ⟨hlo, hhi⟩ => by rw [hash16_eq_append, hlo, hhi]⟩
  rw [← hash16_lowByte, ← hash16_highByte, h]
  exact ⟨BitVec.extractLsb'_append_eq_right, BitVec.extractLsb'_append_eq_left⟩

/-- Settles O39: the bounds on M, then the Frame field by field. -/
theorem frameLayout : Obligations.FrameLayout := by
  rintro b p _ hF rfl -
  simp only [getD_buildFrame_length hF]
  exact ⟨header_add_payload_le_frame hF _, frame_lt_header_add_payload_add_multibyte hF _, length_buildFrame ..,
    fun _ => frameByte_signature, frameByte_size .., by simp, by simp, fun _ => frameByte_payload,
    fun _ => frameByte_padding, hash16_eq_or_shiftLeft ..⟩

/-! ### AcceptFrame (R557, R558) -/

/-- AcceptFrame compares the first two digest bytes of the received payload with the two hash bytes of FB. -/
theorem acceptFrame_iff (s : State) : acceptFrame s = true ↔
    (digestOf s.build.digest (receivedPayload s))[0] = s.fb.read (s.build.F + 1)
      ∧ (digestOf s.build.digest (receivedPayload s))[1] = s.fb.read (s.build.F + 2) := by
  rw [acceptFrame, decide_eq_true_iff, receivedHash, hash16_eq_append_iff]

/-- FB holds the header and the payload of the Frame built for `p`, byte by byte (`getD_buildFrame_length`). -/
def HoldsFrameOf (s : State) (p : List Byte) : Prop :=
  ∀ i, i < s.build.F + 3 + p.length → s.fb.read i = frameByte s.build p p.length (hash16 s.build.digest p) i

theorem HoldsFrameOf.receivedSize_toNat {s : State} {p : List Byte} (h : HoldsFrameOf s p) (hlen : p.length ≤ 255) :
    (receivedSize s).toNat = p.length := by
  rw [receivedSize, h _ (by omega), frameByte_size, BitVec.toNat_ofNat]
  omega

theorem HoldsFrameOf.receivedPayload_eq {s : State} {p : List Byte} (h : HoldsFrameOf s p) (hlen : p.length ≤ 255) :
    receivedPayload s = p := by
  rw [receivedPayload, h.receivedSize_toNat hlen, Memory.readAll]
  refine List.ext_getElem (by simp) fun i _ hi => ?_
  rw [List.getElem_map, List.getElem_range, Build.headerBytes, h _ (by omega), frameByte_payload hi,
    List.getD_eq_getElem _ _ hi]

/-- A built Frame passes: the digest bytes sent are those of the payload received (R558). -/
theorem HoldsFrameOf.acceptFrame_eq_true {s : State} {p : List Byte} (h : HoldsFrameOf s p) (hlen : p.length ≤ 255) :
    acceptFrame s = true := by
  rw [acceptFrame_iff, h.receivedPayload_eq hlen, h _ (by omega), h _ (by omega)]
  simp

/-- Settles O41: a built Frame's fields read back, and the gate is the comparison of the two hash bytes. -/
theorem acceptFrameIsTheDigestGate : Obligations.AcceptFrameIsTheDigestGate := by
  refine ⟨fun s p hF hlen hfb => ?_, acceptFrame_iff⟩
  have hframe : HoldsFrameOf s p := fun i hi => (hfb i hi).trans (getD_buildFrame_length hF p i)
  exact ⟨hframe.acceptFrame_eq_true hlen, hframe.receivedPayload_eq hlen, hframe.receivedSize_toNat hlen⟩

end Sys2Proof.Machine

/-! The statements of 45_transmitter.md: what TRANSMIT's issue fixes and what an issue leaves unchanged (R602), one
EmitWindow (R603), and a whole TRANSMIT (R604). -/

namespace Sys2Proof.Machine

/-! ### The issue (R602, 60_exceptions.md R705) -/

/-- TRANSMIT is issued where no command is in progress and the audio device is there (60_exceptions.md R705). -/
theorem exec_transmit_of_ready {s : State} (size : Nat) (hidle : s.busy = false) (hop : s.operational = true) :
    exec (.transmit size) s = .next (issueTransmit size s) := by
  rw [exec, execTransmit, acceptCommand, if_neg (ne_true_of_eq_false hidle), if_pos hop]

theorem payloadOf_eq (size : Nat) (s : State) : payloadOf size s = (List.range size).map s.txbuf.read := by
  simp [payloadOf, Memory.readAll]

/-- TFB after an issue, inside the Frame (R602). -/
theorem read_tfb_issueTransmit {s : State} {size i : Nat} (hi : i < s.build.multibytes size * s.build.F) :
    (issueTransmit size s).tfb.read i =
      frameByte s.build (payloadOf size s) size (hash16 s.build.digest (payloadOf size s)) i := by
  have hwhole : (payloadOf size s).take size = payloadOf size s :=
    List.take_of_length_le (by simp [payloadOf, Memory.readAll])
  rw [issueTransmit_tfb, Memory.read_ofBytes, getD_buildFrame hi, hwhole]

/-- TFB after an issue, past the Frame (R602). -/
theorem read_tfb_issueTransmit_past {s : State} {size i : Nat} (hi : s.build.multibytes size * s.build.F ≤ i) :
    (issueTransmit size s).tfb.read i = 0 := by
  rw [issueTransmit_tfb, Memory.read_ofBytes, List.getD_eq_default _ _ (by rwa [length_buildFrame])]

/-- The Frame of every size fits the frame buffer (00_scope.md R13). -/
theorem frame_le_frameBuffer (b : Build) {size : Nat} (h : size ≤ 255) :
    b.multibytes size * b.F ≤ b.frameBufferBytes :=
  Nat.mul_le_mul_right _ (multibytes_mono b h)

/-- A word write between 0x100 and 0x1FF reaches TXBUF or nothing (20_memory.md R205 to R207). -/
theorem busTarget_of_txbuf_range {off : Offset} (hlo : 0x100 ≤ off.toNat) (hhi : off.toNat < 0x200) :
    busTarget 32 off = none ∨ ∃ j, busTarget 32 off = some (.txbuf j) := by
  have hnotlow : ¬ off.toNat < 0x030 := by omega
  rw [busTarget, if_pos rfl, registerAt]
  simp only [hnotlow, hlo, hhi, and_self, if_true, if_false]
  split
  · exact .inl rfl
  · exact .inr ⟨_, rfl⟩

/-- Settles O9: the issue's TFB read inside and past the Frame; a write at a TXBUF offset changes TXBUF or the fault
log. -/
theorem transmitIssueBuildsTheFrame : Obligations.TransmitIssueBuildsTheFrame := by
  refine ⟨fun s size _ hidle hop => ?_, fun s t off v hlo hhi hwrite => ?_⟩
  · rw [← payloadOf_eq]
    exact ⟨issueTransmit size s, exec_transmit_of_ready size hidle hop, rfl, Memory.wf_ofBytes _,
      fun _ => read_tfb_issueTransmit, fun _ => read_tfb_issueTransmit_past⟩
  · rcases busTarget_of_txbuf_range hlo hhi with hnone | ⟨j, hword⟩
    · rw [busWrite, hnone] at hwrite
      obtain rfl := Host.Outcome.next.inj hwrite
      exact ⟨rfl, rfl, rfl, rfl, rfl⟩
    · rw [busWrite_of_target hword] at hwrite
      obtain rfl := Host.Outcome.next.inj hwrite
      exact ⟨rfl, rfl, rfl, rfl, rfl⟩

/-- Settles O11: overlap, refusal and issue one by one; only TRANSMIT's issue stores to a buffer, and TFB is 0 outside
the frame buffer before and after it. -/
theorem commandIssueFrame : Obligations.CommandIssueFrame := by
  refine ⟨fun s t size _ hsize hwithin hexec => ?_, fun s t hexec => ?_⟩
  · obtain rfl := Host.Outcome.next.inj hexec
    rcases acceptCommand_cases (issueTransmit size) s with ⟨-, h⟩ | ⟨-, -, h⟩ | ⟨hidle, hop, h⟩ <;> rw [h]
    · exact ⟨rfl, fun _ => ⟨rfl, rfl, rfl, rfl⟩, fun _ _ => rfl, fun _ _ => rfl⟩
    · exact ⟨rfl, fun _ => ⟨rfl, rfl, rfl, rfl⟩, fun _ _ => rfl, fun _ _ => rfl⟩
    · refine ⟨rfl, fun _ => ⟨rfl, rfl, rfl, rfl⟩, fun a ha => ?_, fun hrefused => ?_⟩
      · rw [read_tfb_issueTransmit_past ((frame_le_frameBuffer s.build hsize).trans ha),
          Memory.read_of_within hwithin ha, Memory.unlisted]
      · simp [hidle, hop] at hrefused
  · obtain rfl := Host.Outcome.next.inj hexec
    rcases acceptCommand_cases issueReceive s with ⟨-, h⟩ | ⟨-, -, h⟩ | ⟨-, -, h⟩ <;> rw [h] <;>
      exact ⟨rfl, fun _ => ⟨rfl, rfl, rfl, rfl, rfl⟩⟩

/-! ### StreamWrite where there is room (41_sample_stream.md R411) -/

/-- A chunk that fits the free space is appended whole and nothing is discarded. -/
theorem Stream.write_eq_append {cap : Nat} {s : Stream} {data : List Byte} (hrd : s.rd < cap)
    (hroom : data.length ≤ cap - s.cnt) : s.write cap data = s.append cap data := by
  have hall : data.length - cap = 0 := by omega
  have hnone : overflowDiscard cap s.cnt data.length = 0 := if_neg (by omega)
  rw [Stream.write_eq, hall, List.drop_zero, hnone, Stream.advance, Nat.add_zero, Nat.mod_eq_of_lt hrd, Nat.sub_zero]

theorem storeCircular_append (cap at_ : Nat) (first second : List Byte) (m : Memory) :
    storeCircular cap at_ (first ++ second) m
      = storeCircular cap (at_ + first.length) second (storeCircular cap at_ first m) := by
  induction first generalizing at_ m with
  | nil => rfl
  | cons v vs ih => rw [List.cons_append, storeCircular, ih, List.length_cons, Nat.add_right_comm]; rfl

theorem Stream.append_append (cap : Nat) (first second : List Byte) (s : Stream) :
    (s.append cap first).append cap second = s.append cap (first ++ second) := by
  simp only [Stream.append, storeCircular_append, List.length_append, Nat.add_assoc]

/-! ### EmitWindow (R603) -/

/-- The bytes of the next `n` Windows of the Frame in progress, from TIDX on (44_framing.md R555). -/
def nextWindows (s : State) (n : Nat) : List Byte :=
  (List.range' s.tidx n).flatMap fun idx => bytesOfWindow (frameWindow s.build s.tfb s.tnw idx)

/-- The state once the next `n` Windows stand in TXS (R603). -/
def State.sendWindows (n : Nat) (s : State) : State :=
  { s with txs := s.txs.append s.build.txsBytes (nextWindows s n), tidx := s.tidx + n }

@[simp] theorem length_nextWindows (s : State) (n : Nat) : (nextWindows s n).length = n * (s.build.N * 2) := by
  simp [nextWindows, List.length_flatMap, Nat.mul_comm]

theorem nextWindows_one (s : State) : nextWindows s 1 = bytesOfWindow (sentWindow s) := List.append_nil _

theorem sendWindows_sendWindows (m n : Nat) (s : State) : (s.sendWindows m).sendWindows n = s.sendWindows (m + n) := by
  have hsplit : nextWindows s (m + n) = nextWindows s m ++ nextWindows (s.sendWindows m) n := by
    simp [nextWindows, State.sendWindows, ← List.range'_append_1]
  conv_rhs => rw [State.sendWindows, hsplit, ← Stream.append_append, ← Nat.add_assoc]
  rfl

theorem cnt_sendWindows (n : Nat) (s : State) : (s.sendWindows n).txs.cnt = s.txs.cnt + n * (s.build.N * 2) :=
  congrArg _ (length_nextWindows s n)

theorem contents_sendWindows {s : State} {n : Nat} (hwf : s.txs.buf.wf = true)
    (hroom : s.txs.cnt + n * (s.build.N * 2) ≤ s.build.txsBytes) :
    (s.sendWindows n).txs.contents s.build.txsBytes = s.txs.contents s.build.txsBytes ++ nextWindows s n :=
  Stream.contents_append hwf (by rwa [length_nextWindows])

theorem engineStep_transmit {s : State} (hbusy : s.busy = true) (hcurop : s.curop = .transmit) :
    engineStep s = .next (emitWindow s) := by
  simp only [engineStep, hbusy, hcurop, if_true]

/-- TRANSMIT holds without room for a Window (R603, 70_reset_and_hazards.md R821). -/
theorem emitWindow_of_full {s : State} (h : s.build.txsBytes - s.txs.cnt < s.build.N * 2) : emitWindow s = s :=
  if_pos (.inr h)

section
variable {s : State} (hrd : s.txs.rd < s.build.txsBytes) (hroom : s.build.N * 2 ≤ s.build.txsBytes - s.txs.cnt)
include hrd hroom

/-- The StreamWrite of a Window with room for it is the append of its bytes (R603). -/
theorem write_sentWindow :
    s.txs.write s.build.txsBytes (bytesOfWindow (sentWindow s)) = s.txs.append s.build.txsBytes (nextWindows s 1) := by
  rw [nextWindows_one, Stream.write_eq_append hrd]
  rwa [length_bytesOfWindow, sentWindow, length_frameWindow, Nat.mul_comm]

theorem emitWindow_of_data (hdata : s.tidx < s.tnw) : emitWindow s = s.sendWindows 1 := by
  rcases emitWindow_cases s with ⟨hhold, -⟩ | ⟨-, -, h⟩ | ⟨hgap, -, -⟩
  · exact absurd hhold (not_or.mpr ⟨by omega, Nat.not_lt.mpr hroom⟩)
  · rw [h, ← sentWindow, write_sentWindow hrd hroom, State.sendWindows]
  · omega

theorem emitWindow_of_gap (hgap : s.tidx = s.tnw) : emitWindow s = finish .txDone 0 (s.sendWindows 1) := by
  rcases emitWindow_cases s with ⟨hhold, -⟩ | ⟨hdata, -, -⟩ | ⟨-, -, h⟩
  · exact absurd hhold (not_or.mpr ⟨by omega, Nat.not_lt.mpr hroom⟩)
  · omega
  · rw [h, ← sentWindow, write_sentWindow hrd hroom, State.sendWindows]

end

/-- Settles O42: a hold where TXS lacks the room; otherwise the step sends one Window, and with the gap Window the
command finishes. -/
theorem emitWindowAppendsOneWindow : Obligations.EmitWindowAppendsOneWindow := by
  rintro s - ⟨-, hle, -, hrd, -, hwf, -⟩ hbusy hcurop hpos
  rw [engineStep_transmit hbusy hcurop]
  refine ⟨fun hfull => congrArg _ (emitWindow_of_full hfull), fun hroom => ?_⟩
  have hcontents : (s.sendWindows 1).txs.contents s.build.txsBytes
      = s.txs.contents s.build.txsBytes ++ bytesOfWindow (sentWindow s) := by
    rw [contents_sendWindows hwf (by omega), nextWindows_one]
  have hframe : ∀ a, (∀ i, i < s.build.N * 2 → a ≠ (s.txs.rd + s.txs.cnt + i) % s.build.txsBytes) →
      (s.sendWindows 1).txs.buf.read a = s.txs.buf.read a := fun a ha =>
    read_storeCircular_other hwf fun i hi => ha i (by rwa [length_nextWindows, Nat.one_mul] at hi)
  rcases Nat.lt_or_eq_of_le hpos with hdata | hgap
  · exact ⟨s.sendWindows 1, sentWindow s, congrArg _ (emitWindow_of_data hrd hroom hdata), fun _ => if_pos hdata,
      fun hgap => absurd hgap hdata.ne, hcontents, hframe, fun _ => rfl, fun hgap => absurd hgap hdata.ne⟩
  · exact ⟨finish .txDone 0 (s.sendWindows 1), sentWindow s, congrArg _ (emitWindow_of_gap hrd hroom hgap),
      fun hdata => absurd hgap hdata.ne, fun _ => if_neg hgap.not_lt, hcontents, hframe,
      fun hdata => absurd hgap hdata.ne, fun _ => rfl⟩

/-! ### A whole TRANSMIT (R604) -/

theorem steps_of_step {k : Nat} {s t : State} (h : step s = .next t) : steps (k + 1) s = steps k t := by
  simp only [steps, h]

/-- A CMD write of a well-formed command's word is the command's `exec` (60_exceptions.md R705). -/
theorem step_of_cmdWrite {s : State} {i : Instr} {rest : List Action} (hlegal : s.build.legal = true)
    (hwf : i.wf = true) (hschedule : s.schedule = .busWrite 32 0x008#12 (encode i) :: rest) :
    step s = exec i { s with schedule := rest } := by
  have hdecode : decode (encode i) = .ok i := (decodeAndEncodeAgree _ _).mpr ⟨hwf, rfl⟩
  rw [(stepTakesTheNextTurn s hlegal).1 _ _ hschedule, perform, busWrite_of_target (r := .cmd) rfl, writeRegister,
    cmdWrite, hdecode]

/-- With no turn listed, the step of a TRANSMIT in progress is EmitWindow (log 3). -/
theorem step_transmit {s : State} (hlegal : s.build.legal = true) (hschedule : s.schedule = [])
    (hbusy : s.busy = true) (hcurop : s.curop = .transmit) : step s = .next (emitWindow s) :=
  ((stepTakesTheNextTurn s hlegal).2 hschedule).trans (engineStep_transmit hbusy hcurop)

/-- With no turn listed and room in TXS, `n` data Windows and the gap are sent in `n + 1` steps (R604). -/
theorem steps_transmit {n : Nat} {s : State} (hlegal : s.build.legal = true) (hschedule : s.schedule = [])
    (hbusy : s.busy = true) (hcurop : s.curop = .transmit) (hleft : s.tidx + n = s.tnw)
    (hrd : s.txs.rd < s.build.txsBytes) (hroom : (n + 1) * (s.build.N * 2) ≤ s.build.txsBytes - s.txs.cnt) :
    steps (n + 1) s = .next (finish .txDone 0 (s.sendWindows (n + 1))) := by
  induction n generalizing s with
  | zero =>
    rw [Nat.zero_add, Nat.one_mul] at hroom
    rw [steps_of_step (step_transmit hlegal hschedule hbusy hcurop), emitWindow_of_gap hrd hroom hleft, steps]
  | succ n ih =>
    rw [Nat.succ_mul] at hroom
    have hnext : (s.sendWindows 1).tidx + n = (s.sendWindows 1).tnw := (Nat.succ_add_eq_add_succ ..).trans hleft
    have hrest : (n + 1) * (s.build.N * 2) ≤ s.build.txsBytes - (s.sendWindows 1).txs.cnt := by
      rw [cnt_sendWindows]; omega
    rw [steps_of_step (step_transmit hlegal hschedule hbusy hcurop), emitWindow_of_data hrd (by omega) (by omega),
      ih (s := s.sendWindows 1) hlegal hschedule hbusy hcurop hnext hrd hrest, sendWindows_sendWindows,
      Nat.add_comm 1]

/-- The Windows that follow an issue are the payload's Frame on the wire (44_framing.md R555). -/
theorem nextWindows_issueTransmit (size : Nat) (s : State) :
    nextWindows (issueTransmit size s) (8 * s.build.multibytes size + 1)
      = wireBytes s.build (payloadOf size s) size := by
  rw [wireBytes, List.range_eq_range']
  rfl

/-- Settles O43: the issue, and then every Window of its Frame. -/
theorem transmitSendsTheWholeFrame : Obligations.TransmitSendsTheWholeFrame := by
  rintro s size hlegal ⟨-, hle, -, hrd, -, hwf, -⟩ hidle hop hsize hschedule hroom
  have hissue : step s = .next (issueTransmit size { s with schedule := [] }) :=
    (step_of_cmdWrite hlegal (by simpa [Instr.wf] using hsize) hschedule).trans
      (exec_transmit_of_ready (s := { s with schedule := [] }) size hidle hop)
  have hwire := nextWindows_issueTransmit size { s with schedule := [] }
  rw [← payloadOf_eq]
  refine ⟨_, (steps_of_step hissue).trans
    (steps_transmit hlegal rfl rfl rfl (Nat.zero_add _) hrd hroom), ?_, ?_, ?_⟩
  · have hfits : s.txs.cnt + (8 * s.build.multibytes size + 1) * (s.build.N * 2) ≤ s.build.txsBytes := by omega
    exact (contents_sendWindows (s := issueTransmit size { s with schedule := [] }) hwf hfits).trans (congrArg _ hwire)
  · exact (congrArg _ hwire.symm).trans (length_nextWindows ..)
  · rw [State.sendWindows, issueTransmit_tidx, Nat.zero_add]
    rfl

end Sys2Proof.Machine

/-! The statements of 46_receiver.md about RECEIVE's issue and its micro-steps, one by one. -/

namespace Sys2Proof.Machine

/-! ### The issue (R651) -/

/-- Settles O10: where no command is in progress and the audio device is there, the acceptance is the issue. -/
theorem receiveIssueOnlyStartsTheCommand : Obligations.ReceiveIssueOnlyStartsTheCommand := by
  intro s hidle hop
  rw [exec, execReceive, acceptCommand, if_neg (ne_true_of_eq_false hidle), if_pos hop, issueReceive]

/-! ### Which micro-step is taken (R652, R655, R662) -/

theorem engineStep_receive {s : State} (hbusy : s.busy = true) (hcurop : s.curop = .receive) :
    engineStep s = receiveStep s := by
  simp only [engineStep, hbusy, hcurop, if_true]

theorem receiveNeed_of_scanning {s : State} (hst : s.rxst = .scanning) : receiveNeed s = 2 := by
  rw [receiveNeed, hst, Config.sampleBytes]

/-- SYNCING, HEADER and PAYLOAD need the rest of a Window (R654). -/
theorem receiveNeed_of_window {s : State} (hscan : s.rxst ≠ .scanning) (hval : s.rxst ≠ .validating) :
    receiveNeed s = (s.build.N - s.wfill) * 2 := by
  unfold receiveNeed
  cases hst : s.rxst with
  | scanning => exact absurd hst hscan
  | validating => exact absurd hst hval
  | syncing | header | payload => rfl

/-- A micro-step without the bytes it needs finishes the command (R662). -/
theorem receiveStep_of_short {s : State} (h : s.rxs.cnt < receiveNeed s) :
    receiveStep s = .next (finish .noDataYet 0 s) := by
  rcases receiveStep_cases s with ⟨-, hstep⟩ | ⟨henough, -⟩
  · exact hstep
  · omega

theorem receiveStep_of_scanning {s : State} (hst : s.rxst = .scanning) (h : 2 ≤ s.rxs.cnt) :
    receiveStep s = .next (scanSample (s.rxs.oldest s.build.rxsBytes Config.sampleBytes) (afterSample s)) := by
  simp only [receiveStep, hst]
  exact withBytes_enough _ h

theorem receiveStep_of_decoding {s : State} (hst : s.rxst = .header ∨ s.rxst = .payload)
    (h : (s.build.N - s.wfill) * 2 ≤ s.rxs.cnt) :
    receiveStep s = .next (decodeWindow (nextWindow s) (afterWindow s)) := by
  have hstep : receiveStep s = decodeStep s := by rcases hst with hst | hst <;> simp only [receiveStep, hst]
  exact hstep.trans (withWindow_enough _ h)

/-- Settles O45: BUSY and CUROP are set again by the next RECEIVE, and RESULT is all the micro-step changed besides. -/
theorem noDataYetKeepsTheReceiver : Obligations.NoDataYetKeepsTheReceiver := by
  intro s hbusy hcurop hop hshort
  have hneed : s.rxs.cnt < receiveNeed s := by
    rcases hshort with ⟨hst, hcnt⟩ | ⟨hscan, hval, hcnt⟩
    · rwa [receiveNeed_of_scanning hst]
    · rwa [receiveNeed_of_window hscan hval]
  refine ⟨finish .noDataYet 0 s, ?_, rfl, ?_⟩
  · rw [engineStep_receive hbusy hcurop, receiveStep_of_short hneed]
  · rw [receiveIssueOnlyStartsTheCommand (finish .noDataYet 0 s) rfl hop, ← hbusy, ← hcurop]
    rfl

/-! ### ScanStep (R653, 43_sync_calibration.md R502, R503) -/

theorem scannedSample_eq (s : State) : scannedSample s =
    s.rxs.buf.read ((s.rxs.rd + 1) % s.build.rxsBytes) ++ s.rxs.buf.read (s.rxs.rd % s.build.rxsBytes) := rfl

theorem scanSample_of_quiet {s : State} (h : sampleAbs (scannedSample s) ≤ s.thr.toNat) :
    scanSample (s.rxs.oldest s.build.rxsBytes Config.sampleBytes) (afterSample s) = afterSample s :=
  if_neg fun hloud : triggers s.thr (scannedSample s) = true => (of_decide_eq_true hloud).not_ge h

theorem scanSample_of_loud {s : State} (h : s.thr.toNat < sampleAbs (scannedSample s)) :
    scanSample (s.rxs.oldest s.build.rxsBytes Config.sampleBytes) (afterSample s)
      = triggerAction (scannedSample s) (afterSample s) :=
  if_pos (decide_eq_true h)

/-- Settles O32: a Sample's magnitude fits the 16 bits of VTRIG. -/
theorem scanStepConsumesOneSample : Obligations.ScanStepConsumesOneSample := by
  intro s hbusy hcurop hst
  rw [engineStep_receive hbusy hcurop]
  refine ⟨fun hshort => ?_, fun henough v hv => ?_⟩
  · exact receiveStep_of_short (by rwa [receiveNeed_of_scanning hst])
  · obtain rfl : v = scannedSample s := hv.trans (scannedSample_eq s).symm
    rw [receiveStep_of_scanning hst henough]
    rcases Nat.lt_or_ge s.thr.toNat (sampleAbs (scannedSample s)) with hloud | hquiet
    · have hfits := sampleAbs_le (scannedSample s)
      have hvtrig : (BitVec.ofNat 16 (sampleAbs (scannedSample s))).toNat = sampleAbs (scannedSample s) := by
        rw [BitVec.toNat_ofNat]
        omega
      rw [scanSample_of_loud hloud]
      exact ⟨_, rfl, rfl, fun hquiet => absurd hquiet hloud.not_ge, fun _ => ⟨hvtrig, rfl⟩⟩
    · rw [scanSample_of_quiet hquiet]
      exact ⟨_, rfl, rfl, fun _ => rfl, fun hloud => absurd hloud hquiet.not_gt⟩

/-! ### DecodeStep (R664, R665) -/

/-- With no Sample held the Window is the first of RXS. -/
theorem nextWindow_of_empty {s : State} (hwfill : s.wfill = 0) (hcnt : s.build.N * 2 ≤ s.rxs.cnt) :
    nextWindow s = windowOfBytes ((s.rxs.contents s.build.rxsBytes).take (s.build.N * 2)) := by
  rw [nextWindow, hwfill, List.take_zero, List.nil_append, Nat.sub_zero, Config.sampleBytes, Stream.oldest_eq_take hcnt]

/-- Then the Window's read changes RXS and WBUF only. -/
theorem afterWindow_of_empty {s : State} (hwfill : s.wfill = 0) :
    afterWindow s = { s with rxs := (afterWindow s).rxs, wbuf := nextWindow s } := by
  simp [afterWindow, hwfill]

theorem afterMultibit_of_empty {s : State} (hwfill : s.wfill = 0) : afterMultibit s =
    { s with rxs := (afterWindow s).rxs, wbuf := nextWindow s, fb := (afterMultibit s).fb } := by
  simp [afterMultibit, afterWindow, hwfill]

theorem decodeWindow_of_noisy {s : State} (hnf : s.nfDecEn = true) (hnoisy : noiseOk s.build (nextWindow s) = false) :
    decodeWindow (nextWindow s) (afterWindow s) = abortFrame (afterWindow s) :=
  if_pos (Bool.and_eq_true_iff.mpr ⟨hnf, congrArg not hnoisy⟩)

section
variable {s : State} (hclean : s.nfDecEn = false ∨ noiseOk s.build (nextWindow s) = true)
include hclean

theorem decodeWindow_of_clean : decodeWindow (nextWindow s) (afterWindow s) =
    if s.rwidx.toNat < 7 then { afterMultibit s with rwidx := s.rwidx + 1 }
    else completeMultibyte (afterMultibit s) := by
  have hpass : ¬ (s.nfDecEn && !noiseOk s.build (nextWindow s)) = true := by
    rcases hclean with h | h <;> simp [h]
  exact if_neg hpass

theorem decodeWindow_of_nextBit (hlt : s.rwidx.toNat < 7) :
    decodeWindow (nextWindow s) (afterWindow s) = { afterMultibit s with rwidx := s.rwidx + 1 } := by
  rw [decodeWindow_of_clean hclean, if_pos hlt]

theorem decodeWindow_of_lastBit (hlast : s.rwidx.toNat = 7) :
    decodeWindow (nextWindow s) (afterWindow s) = completeMultibyte (afterMultibit s) := by
  rw [decodeWindow_of_clean hclean, if_neg hlast.not_lt]

end

/-- The byte of carrier `c` takes the carrier's bit (R665, 42_bit_codec.md R461). -/
theorem read_afterMultibit_carrier {s : State} (hwf : s.fb.wf = true) {c : Nat} (hc : c < s.build.F) :
    (afterMultibit s).fb.read (s.rcvd + c) = s.fb.read (s.rcvd + c)
      ||| (if s.build.dp * s.build.dp * s.cal.getD c 0
          < s.build.dq * s.build.dq * power s.build (nextWindow s) (s.build.freq.getD c 0)
        then 1#8 <<< s.rwidx.toNat else 0#8) := by
  rw [read_afterMultibit hwf, if_pos ⟨Nat.le_add_right _ _, Nat.add_lt_add_left hc _⟩, Nat.add_sub_cancel_left,
    getD_decodeMultibit _ _ hc, carrierBin]
  simp only [decide_eq_true_eq]

/-- Settles O46: an abort, one more bit, or the eighth; FB is `afterMultibit`'s where there is no abort. -/
theorem decodeStepStoresOneMultibit : Obligations.DecodeStepStoresOneMultibit := by
  intro s hbusy hcurop hst hwf hwfill hcnt
  have hneed : (s.build.N - s.wfill) * 2 ≤ s.rxs.cnt := by rwa [hwfill, Nat.sub_zero]
  have hcarriers := fun c (hc : c < s.build.F) => read_afterMultibit_carrier hwf hc
  have houtside := fun a (ha : a < s.rcvd ∨ s.rcvd + s.build.F ≤ a) => read_afterMultibit_outside hwf ha
  have hmultibit := afterMultibit_of_empty hwfill
  have hrxs : (afterWindow s).rxs
      = ⟨s.rxs.buf, (s.rxs.rd + s.build.N * 2) % s.build.rxsBytes, s.rxs.cnt - s.build.N * 2⟩ := by
    simp only [afterWindow, hwfill, Nat.sub_zero, Config.sampleBytes]
  rw [engineStep_receive hbusy hcurop, receiveStep_of_decoding hst hneed, ← nextWindow_of_empty hwfill hcnt]
  by_cases hnoisy : s.nfDecEn = true ∧ noiseOk s.build (nextWindow s) = false
  · obtain ⟨hnf, hfail⟩ := hnoisy
    rw [decodeWindow_of_noisy hnf hfail]
    refine ⟨_, _, rfl, rfl, hrxs, fun _ _ => congrArg abortFrame (afterWindow_of_empty hwfill), fun hclean => ?_⟩
    simp [hnf, hfail] at hclean
  · have hclean : s.nfDecEn = false ∨ noiseOk s.build (nextWindow s) = true := by
      simpa [or_iff_not_imp_left] using hnoisy
    rcases Nat.lt_or_ge s.rwidx.toNat 7 with hlt | hge
    · rw [decodeWindow_of_nextBit hclean hlt]
      exact ⟨_, _, rfl, rfl, hrxs, fun hnf hfail => absurd ⟨hnf, hfail⟩ hnoisy, fun _ =>
        ⟨hcarriers, houtside, fun _ => congrArg ({ · with rwidx := s.rwidx + 1 }) hmultibit,
        fun hlast => absurd hlast hlt.ne⟩⟩
    · have hlast : s.rwidx.toNat = 7 := by omega
      rw [decodeWindow_of_lastBit hclean hlast]
      exact ⟨_, _, rfl, rfl, hrxs, fun hnf hfail => absurd ⟨hnf, hfail⟩ hnoisy, fun _ =>
        ⟨hcarriers, houtside, fun hlt => absurd hlast hlt.ne, fun _ => congrArg completeMultibyte hmultibit⟩⟩

/-! ### ValidateStep (R666 to R668) -/

theorem receiveStep_of_validating {s : State} (hst : s.rxst = .validating) :
    receiveStep s = .next (validateStep s) := by
  simp only [receiveStep, hst]

theorem validateStep_of_accept {s : State} (h : acceptFrame s = true) :
    validateStep s = finish .delivered (receivedSize s) { s with rxst := .scanning, rwidx := 0 } := if_pos h

theorem validateStep_of_mismatch {s : State} (h : acceptFrame s = false) :
    validateStep s = finish .digestMismatch 0 { s with rxst := .scanning, rwidx := 0 } :=
  if_neg (ne_true_of_eq_false h)

/-- RXBUF shows the received payload: the largest payload fits the frame buffer (10_state.md R120). -/
theorem rxbufByte_eq_receivedPayload {s : State} {i : Nat} (hF : 1 ≤ s.build.F) (hi : i < (receivedSize s).toNat) :
    rxbufByte s i = (receivedPayload s).getD i 0 := by
  have hframe := header_add_max_le_frameBuffer hF
  have hsize := (receivedSize s).isLt
  rw [rxbufByte, if_pos (by rw [Build.headerBytes]; omega), receivedPayload, Memory.readAll,
    List.getD_eq_getElem _ _ (by simpa using hi), List.getElem_map, List.getElem_range]

/-- Settles O47: FB is the same before and after, so RXBUF shows the payload that AcceptFrame took. -/
theorem validateStepDeliversOrReports : Obligations.ValidateStepDeliversOrReports := by
  intro s hbusy hcurop hst
  rw [engineStep_receive hbusy hcurop, receiveStep_of_validating hst]
  refine ⟨validateStep s, rfl, ?_⟩
  cases haccept : acceptFrame s with
  | true =>
    rw [validateStep_of_accept haccept]
    exact ⟨rfl, fun _ => ⟨rfl, rfl, fun hF i hi => rxbufByte_eq_receivedPayload (s := s) hF hi⟩, nofun⟩
  | false =>
    rw [validateStep_of_mismatch haccept]
    exact ⟨rfl, nofun, fun _ => ⟨rfl, rfl⟩⟩

/-! ### RECEIVE never holds (R652) -/

/-- Between steps at most one Sample of a Window is held. -/
theorem ReceiverInv.wfill_le_one {s : State} (h : ReceiverInv s) : s.wfill ≤ 1 := by
  obtain ⟨-, -, hwfill, -⟩ := h
  rw [hwfill]
  split <;> decide

/-- Every micro-step but ValidateStep needs bytes of RXS. -/
theorem receiveNeed_pos {s : State} (hN : 2 ≤ s.build.N) (hinv : ReceiverInv s) (hval : s.rxst ≠ .validating) :
    0 < receiveNeed s := by
  have hfill := hinv.wfill_le_one
  by_cases hscan : s.rxst = .scanning
  · rw [receiveNeed_of_scanning hscan]
    decide
  · rw [receiveNeed_of_window hscan hval]
    omega

/-- A micro-step that has the bytes it needs consumes them, or finishes the command. -/
theorem ReceiveTo.consumes_or_finishes {s t : State} (h : ReceiveTo s t) :
    (t.rxs.cnt = s.rxs.cnt - receiveNeed s ∧ s.rxst ≠ .validating) ∨ t.busy = false := by
  cases h with
  | scan hst | trigger hst | nextSignature hst | synchronized hst | reject hst =>
    exact .inl ⟨by rw [receiveNeed, hst]; rfl, by simp [hst]⟩
  | abort hst | nextBit hst | complete hst =>
    rcases hst with hst | hst <;> exact .inl ⟨by rw [receiveNeed, hst]; rfl, by simp [hst]⟩
  | deliver | mismatch => exact .inr rfl

/-- A micro-step with the bytes it needs is one of `ReceiveTo`'s. -/
theorem receiveStep_of_enough {s : State} (h : receiveNeed s ≤ s.rxs.cnt) :
    ∃ t, receiveStep s = .next t ∧ ReceiveTo s t := by
  rcases receiveStep_cases s with ⟨hshort, -⟩ | ⟨-, ⟨hst, hstep⟩ | ⟨hst, hstep⟩ | ⟨hst, hstep⟩ | ⟨hst, hstep⟩⟩
  · omega
  · exact ⟨_, hstep, scanSample_receiveTo hst⟩
  · exact ⟨_, hstep, syncWindow_receiveTo hst⟩
  · exact ⟨_, hstep, decodeWindow_receiveTo hst⟩
  · exact ⟨_, hstep, validateStep_receiveTo hst⟩

/-- Settles O48: the micro-step finishes the command or consumes bytes, and either way the state is another. -/
theorem receiveNeverHolds : Obligations.ReceiveNeverHolds := by
  intro s hlegal hinv hbusy hcurop
  have hN := two_le_half_N_of_legal hlegal
  have hmoves {t : State} (h : t.rxs.cnt < s.rxs.cnt ∨ t.busy = false) :
      t ≠ s ∧ (t.rxs.cnt < s.rxs.cnt ∨ t.rxst ≠ s.rxst ∨ t.busy = false) :=
    ⟨by rintro rfl; simp [hbusy] at h, h.imp_right .inr⟩
  rw [engineStep_receive hbusy hcurop]
  rcases Nat.lt_or_ge s.rxs.cnt (receiveNeed s) with hshort | henough
  · exact ⟨_, receiveStep_of_short hshort, hmoves (.inr rfl)⟩
  · obtain ⟨t, hstep, hto⟩ := receiveStep_of_enough henough
    refine ⟨t, hstep, hmoves (hto.consumes_or_finishes.imp_left fun ⟨hcnt, hval⟩ => ?_)⟩
    have hpos := receiveNeed_pos (by omega) hinv hval
    omega

end Sys2Proof.Machine

/-! The round trip of a Frame (46_receiver.md R671): a receiver that hears a Frame from its first Window on scans,
synchronizes, decodes and delivers, one phase per section. -/

namespace Sys2Proof.Machine

/-! ### What a Frame is on the wire (44_framing.md R555) -/

/-- The Frame sent for a payload, as bytes. -/
def sentFrame (b : Build) (p : List Byte) : Memory := Memory.ofBytes (buildFrame b p p.length)

/-- Window `idx` of the Frame sent for a payload. -/
def wireWindow (b : Build) (p : List Byte) (idx : Nat) : Window :=
  frameWindow b (sentFrame b p) (8 * b.multibytes p.length) idx

/-- The bytes of the Frame from Window `idx` to the gap. -/
def wireFrom (b : Build) (p : List Byte) (idx : Nat) : List Byte :=
  (List.range' idx (8 * b.multibytes p.length + 1 - idx)).flatMap fun i => bytesOfWindow (wireWindow b p i)

/-- The Window of the signature's Multibits (30_encoding.md R306). -/
def signatureWindow (b : Build) : Window := encodeWindow b (List.replicate b.F true)

@[simp] theorem length_wireWindow (b : Build) (p : List Byte) (idx : Nat) : (wireWindow b p idx).length = b.N :=
  length_frameWindow ..

theorem wireBytes_eq (b : Build) (p : List Byte) : wireBytes b p p.length = wireFrom b p 0 := by
  rw [wireBytes, List.range_eq_range']
  rfl

theorem wireFrom_eq_append {b : Build} {p : List Byte} {idx : Nat} (h : idx ≤ 8 * b.multibytes p.length) :
    wireFrom b p idx = bytesOfWindow (wireWindow b p idx) ++ wireFrom b p (idx + 1) := by
  have hcount : 8 * b.multibytes p.length + 1 - idx = 8 * b.multibytes p.length + 1 - (idx + 1) + 1 := by omega
  rw [wireFrom, hcount, List.range'_succ, List.flatMap_cons]
  rfl

theorem read_sentFrame {b : Build} (hF : 1 ≤ b.F) (p : List Byte) (i : Nat) :
    (sentFrame b p).read i = frameByte b p p.length (hash16 b.digest p) i := by
  rw [sentFrame, Memory.read_ofBytes, getD_buildFrame_length hF]

/-- A Frame has a Multibyte behind its signature. -/
theorem two_le_multibytes {b : Build} (hF : 1 ≤ b.F) (size : Nat) : 2 ≤ b.multibytes size := by
  have hfits := header_add_payload_le_frame hF size
  rw [Build.headerBytes] at hfits
  by_contra hfew
  have hle : b.multibytes size * b.F ≤ 1 * b.F := Nat.mul_le_mul_right _ (by omega)
  omega

theorem wireWindow_of_data {b : Build} {p : List Byte} {idx : Nat} (h : idx < 8 * b.multibytes p.length) :
    wireWindow b p idx = encodeWindow b (windowBits b (sentFrame b p) idx) := if_pos h

theorem wireWindow_of_signature {b : Build} {p : List Byte} {idx : Nat} (hF : 1 ≤ b.F) (h : idx < 8) :
    wireWindow b p idx = signatureWindow b := by
  have hdata := two_le_multibytes hF p.length
  rw [wireWindow_of_data (by omega), sentFrame, signatureDrivesEveryCarrier b p p.length idx hF h, signatureWindow]

/-! ### A receiver that hears bytes -/

/-- RECEIVE delivers `p`: it finishes with DELIVERED, the payload's size and the payload in RXBUF (R667). -/
def Delivers (p : List Byte) (s : State) : Prop :=
  ∃ k t, steps k s = .next t ∧ t.busy = false ∧ t.rcode = .delivered ∧ t.rsize.toNat = p.length
    ∧ t.rxst = .scanning ∧ ∀ i, i < p.length → rxbufByte t i = p.getD i 0

theorem Delivers.of_step {p : List Byte} {s t : State} (hstep : step s = .next t) (h : Delivers p t) :
    Delivers p s := by
  obtain ⟨k, u, hsteps, hdelivered⟩ := h
  exact ⟨k + 1, u, (steps_of_step hstep).trans hsteps, hdelivered⟩

/-- RECEIVE in progress with `bytes` in RXS, both noise-floor policies off and no turn listed. -/
structure Listening (s : State) (bytes : List Byte) : Prop where
  legal : s.build.legal = true
  schedule : s.schedule = []
  busy : s.busy = true
  curop : s.curop = .receive
  nfSyncEn : s.nfSyncEn = false
  nfDecEn : s.nfDecEn = false
  contents : s.rxs.contents s.build.rxsBytes = bytes

section
variable {s : State} {bytes : List Byte}

theorem Listening.step_eq (h : Listening s bytes) : step s = receiveStep s :=
  ((stepTakesTheNextTurn s h.legal).2 h.schedule).trans (engineStep_receive h.busy h.curop)

theorem Listening.cnt_eq (h : Listening s bytes) : s.rxs.cnt = bytes.length := by
  rw [← h.contents, Stream.length_contents]

/-- The oldest bytes heard are the first of the bytes. -/
theorem Listening.oldest_eq {first : List Byte} {n : Nat} (h : Listening s (first ++ bytes)) (hn : first.length = n) :
    s.rxs.oldest s.build.rxsBytes n = first := by
  have hcnt := h.cnt_eq
  rw [List.length_append] at hcnt
  rw [Stream.oldest_eq_take (by omega), h.contents, List.take_left' hn]

theorem Listening.contents_advance {first : List Byte} {n : Nat} (h : Listening s (first ++ bytes))
    (hn : first.length = n) : (s.rxs.advance s.build.rxsBytes n).contents s.build.rxsBytes = bytes := by
  rw [Stream.contents_advance, h.contents, List.drop_left' hn]

end

/-! ### DELIVERED (R666, R667) -/

/-- In VALIDATING with the Frame in FB, the next step delivers. -/
theorem delivers_of_validating {s : State} {p bytes : List Byte} (h : Listening s bytes) (hst : s.rxst = .validating)
    (hframe : HoldsFrameOf s p) (hlen : p.length ≤ 255) : Delivers p s := by
  have hsize := hframe.receivedSize_toNat hlen
  have hstep : step s = .next (validateStep s) := h.step_eq.trans (receiveStep_of_validating hst)
  rw [validateStep_of_accept (hframe.acceptFrame_eq_true hlen)] at hstep
  refine ⟨1, _, steps_of_step hstep, rfl, rfl, hsize, rfl, fun i hi => ?_⟩
  rw [← hsize] at hi
  exact (rxbufByte_eq_receivedPayload (s := s) (one_le_F_of_legal h.legal) hi).trans
    (by rw [hframe.receivedPayload_eq hlen])

/-! ### Windows heard (R654) -/

/-- A receiver that hears the rest of a Window reads the Window and hears what follows it. -/
theorem Listening.window {s : State} {w : Window} {bytes : List Byte}
    (h : Listening s (bytesOfWindow (w.drop s.wfill) ++ bytes)) (hlen : w.length = s.build.N)
    (hheld : s.wbuf.take s.wfill = w.take s.wfill) :
    (s.build.N - s.wfill) * 2 ≤ s.rxs.cnt ∧ nextWindow s = w ∧ Listening (afterWindow s) bytes := by
  have hneed : (bytesOfWindow (w.drop s.wfill)).length = (s.build.N - s.wfill) * Config.sampleBytes := by
    rw [length_bytesOfWindow, List.length_drop, hlen, Config.sampleBytes, Nat.mul_comm]
  refine ⟨?_, ?_, { h with contents := h.contents_advance hneed }⟩
  · have hcnt := h.cnt_eq
    rw [List.length_append, hneed, Config.sampleBytes] at hcnt
    omega
  · rw [nextWindow, h.oldest_eq hneed, hheld, windowOfBytes_bytesOfWindow, List.take_append_drop]

/-! ### HEADER and PAYLOAD (R665) -/

/-- Windows before `idx` have brought FB their bits of the Frame: bit `j` of byte `a` is in Window 8 * (a / F) + j
(30_encoding.md R303). -/
def HoldsBits (s : State) (p : List Byte) (idx : Nat) : Prop :=
  ∀ a j, j < 8 → (s.fb.read a).getLsbD j
    = (((sentFrame s.build p).read a).getLsbD j && decide (8 * (a / s.build.F) + j < idx))

/-- A byte all of whose Windows are decoded is the Frame's. -/
theorem HoldsBits.read_eq {s : State} {p : List Byte} {idx a : Nat} (h : HoldsBits s p idx)
    (ha : 8 * (a / s.build.F) + 8 ≤ idx) : s.fb.read a = (sentFrame s.build p).read a := by
  refine BitVec.eq_of_getLsbD_eq fun j hj => ?_
  rw [h a j hj, decide_eq_true (by omega), Bool.and_true]

theorem getLsbD_or_bit {x : Byte} {bit : Bool} {j k : Nat} (hj : j < 8) :
    (x ||| (if bit then 1#8 <<< k else 0#8)).getLsbD j = (x.getLsbD j || (bit && decide (j = k))) := by
  cases bit with
  | false => simp
  | true =>
    have hplace : (!decide (j < k) && decide (j - k = 0)) = decide (j = k) := by
      rw [Bool.eq_iff_iff]
      simp only [Bool.and_eq_true, Bool.not_eq_true', decide_eq_false_iff_not, decide_eq_true_iff]
      omega
    simp [hj, hplace]

/-- A decoded Window brings FB its bits. -/
theorem HoldsBits.afterMultibit {s : State} {p : List Byte} {idx : Nat} (hF : 1 ≤ s.build.F) (h : HoldsBits s p idx)
    (hwf : s.fb.wf = true) (hrcvd : s.rcvd = idx / 8 * s.build.F) (hrwidx : s.rwidx.toNat = idx % 8)
    (hbits : decodeMultibit s.build (nextWindow s) s.cal = windowBits s.build (sentFrame s.build p) idx) :
    HoldsBits (afterMultibit s) p (idx + 1) := by
  intro a j hj
  have hplace : s.rcvd ≤ a ∧ a < s.rcvd + s.build.F ↔ a / s.build.F = idx / 8 := by
    rw [Nat.div_eq_iff hF, hrcvd]
    omega
  rw [read_afterMultibit hwf, hbits, hrwidx]
  change _ = (((sentFrame s.build p).read a).getLsbD j && decide (8 * (a / s.build.F) + j < idx + 1))
  by_cases hin : s.rcvd ≤ a ∧ a < s.rcvd + s.build.F
  · have hmultibyte := hplace.mp hin
    have ha : idx / 8 * s.build.F + (a - s.rcvd) = a := by omega
    rw [if_pos hin, getLsbD_or_bit hj, h a j hj, getD_windowBits (by omega), ha, hmultibyte]
    by_cases hjk : j = idx % 8
    · subst hjk
      rw [decide_eq_false (by omega), decide_eq_true (by omega : 8 * (idx / 8) + idx % 8 < idx + 1)]
      simp
    · have hlt : 8 * (idx / 8) + j < idx ↔ 8 * (idx / 8) + j < idx + 1 := by omega
      simp only [hlt, decide_eq_false hjk, Bool.and_false, Bool.or_false]
  · have hother := mt hplace.mpr hin
    have hlt : 8 * (a / s.build.F) + j < idx ↔ 8 * (a / s.build.F) + j < idx + 1 := by omega
    rw [if_neg hin, h a j hj]
    simp only [hlt]

/-- The build's codec carries its signature and every Multibit: the calibration of the signature's Window decodes what
Encode sends. -/
structure Conveys (b : Build) : Prop where
  signature : sigCheck b false (signatureWindow b) = true
  multibits : ∀ bits : Multibit, bits.length = b.F →
    decodeMultibit b (encodeWindow b bits) (carrierPowers b (signatureWindow b)) = bits

/-- A receiver about to decode Window `idx` of the Frame of `p`, which it hears from that Window on. -/
structure Decoding (s : State) (p : List Byte) (idx : Nat) : Prop where
  listening : Listening s (wireFrom s.build p idx)
  rxst : s.rxst = .header ∨ s.rxst = .payload
  wfill : s.wfill = 0
  rcvd : s.rcvd = idx / 8 * s.build.F
  rwidx : s.rwidx.toNat = idx % 8
  cal : s.cal = carrierPowers s.build (signatureWindow s.build)
  wf : s.fb.wf = true
  past : 8 ≤ idx
  bits : HoldsBits s p idx

section
variable {s : State} {p : List Byte} {idx : Nat}

/-- The Window is read and its Multibit decoded as sent. -/
theorem Decoding.hears (h : Decoding s p idx) (hconveys : Conveys s.build)
    (hdata : idx < 8 * s.build.multibytes p.length) :
    step s = .next (decodeWindow (nextWindow s) (afterWindow s))
      ∧ Listening (afterWindow s) (wireFrom s.build p (idx + 1)) ∧ HoldsBits (afterMultibit s) p (idx + 1) := by
  have hlisten := h.listening
  have hfirst : (wireWindow s.build p idx).drop s.wfill = wireWindow s.build p idx := by rw [h.wfill, List.drop_zero]
  rw [wireFrom_eq_append hdata.le, ← hfirst] at hlisten
  obtain ⟨hcnt, hwindow, hrest⟩ := hlisten.window (length_wireWindow ..) (by simp [h.wfill])
  refine ⟨h.listening.step_eq.trans (receiveStep_of_decoding h.rxst hcnt), hrest, ?_⟩
  refine h.bits.afterMultibit (one_le_F_of_legal h.listening.legal) h.wf h.rcvd h.rwidx ?_
  rw [hwindow, wireWindow_of_data hdata, h.cal, hconveys.multibits _ (length_windowBits ..)]

/-- Within a Multibyte the receiver goes on to the next bit. -/
theorem Decoding.nextBit (h : Decoding s p idx) (hconveys : Conveys s.build)
    (hdata : idx < 8 * s.build.multibytes p.length) (hlt : idx % 8 < 7) :
    ∃ t, step s = .next t ∧ t.build = s.build ∧ Decoding t p (idx + 1) := by
  obtain ⟨hstep, hrest, hbits⟩ := h.hears hconveys hdata
  have hrwidx : s.rwidx.toNat < 7 := h.rwidx.trans_lt hlt
  rw [decodeWindow_of_nextBit (.inl h.listening.nfDecEn) hrwidx] at hstep
  refine ⟨_, hstep, rfl, { hrest with }, h.rxst, rfl, ?_, ?_, h.cal, wf_orMultibit h.wf _ _ _, h.past.step, hbits⟩
  · exact h.rcvd.trans (congrArg (· * s.build.F) (by omega : idx / 8 = (idx + 1) / 8))
  · refine (rwidx_succ_toNat hrwidx).trans ?_
    rw [h.rwidx]
    omega

/-- With a Multibyte's eighth bit the size field is there, and it says whether the Frame is complete. -/
theorem Decoding.lastBit (h : Decoding s p idx) (hconveys : Conveys s.build)
    (hdata : idx < 8 * s.build.multibytes p.length) (hlen : p.length ≤ 255) (hlast : idx % 8 = 7) :
    ∃ t, step s = .next t ∧ t.build = s.build ∧ HoldsBits t p (idx + 1)
      ∧ Listening t (wireFrom s.build p (idx + 1))
      ∧ (s.build.F + 3 + p.length ≤ (idx / 8 + 1) * s.build.F → t.rxst = .validating)
      ∧ ((idx / 8 + 1) * s.build.F < s.build.F + 3 + p.length → Decoding t p (idx + 1)) := by
  obtain ⟨hstep, hrest, hbits⟩ := h.hears hconveys hdata
  have hF := one_le_F_of_legal h.listening.legal
  have hpast := h.past
  rw [decodeWindow_of_lastBit (.inl h.listening.nfDecEn) (h.rwidx.trans hlast)] at hstep
  have hnext : (idx + 1) / 8 = idx / 8 + 1 := by omega
  have hrcvd : s.rcvd + s.build.F = (idx / 8 + 1) * s.build.F := by rw [h.rcvd, Nat.succ_mul]
  have hfield : (afterMultibit s).fb.read s.build.F = (sentFrame s.build p).read s.build.F :=
    hbits.read_eq (a := s.build.F) (by change 8 * (s.build.F / s.build.F) + 8 ≤ _; rw [Nat.div_self hF]; omega)
  have hsize : (receivedSize (afterMultibit s)).toNat = p.length := by
    refine (congrArg BitVec.toNat hfield).trans ?_
    rw [read_sentFrame hF, frameByte_size, BitVec.toNat_ofNat]
    omega
  have hlisten : Listening (completeMultibyte (afterMultibit s)) (wireFrom s.build p (idx + 1)) :=
    { hrest with }
  have hrxst : (completeMultibyte (afterMultibit s)).rxst =
      if s.build.F + 3 + p.length ≤ (idx / 8 + 1) * s.build.F then .validating else .payload := by
    rw [← hrcvd, ← hsize]
    rfl
  refine ⟨_, hstep, rfl, hbits, hlisten, fun hdone => hrxst.trans (if_pos hdone), fun hmore =>
    ⟨hlisten, .inr (hrxst.trans (if_neg hmore.not_ge)), rfl, ?_, (by omega : 0 = (idx + 1) % 8), h.cal,
      wf_orMultibit h.wf _ _ _, hpast.step, hbits⟩⟩
  rw [hnext]
  exact hrcvd

end

/-- With the whole Frame's bits FB holds the Frame. -/
theorem HoldsBits.holdsFrameOf {s : State} {p : List Byte} (hF : 1 ≤ s.build.F)
    (h : HoldsBits s p (8 * s.build.multibytes p.length)) : HoldsFrameOf s p := by
  intro i hi
  have hfits := header_add_payload_le_frame hF p.length
  rw [Build.headerBytes] at hfits
  have hmultibyte : i / s.build.F < s.build.multibytes p.length := (Nat.div_lt_iff_lt_mul hF).mpr (by omega)
  rw [h.read_eq (by omega), read_sentFrame hF]

/-- From HEADER or PAYLOAD on, the rest of the Frame is delivered. -/
theorem delivers_of_decoding {n : Nat} {s : State} {p : List Byte} {idx : Nat} (h : Decoding s p idx)
    (hconveys : Conveys s.build) (hlen : p.length ≤ 255) (hleft : idx + (n + 1) = 8 * s.build.multibytes p.length) :
    Delivers p s := by
  induction n generalizing s idx with
  | zero =>
    have hF := one_le_F_of_legal h.listening.legal
    have hfits := header_add_payload_le_frame hF p.length
    obtain ⟨t, hstep, hbuild, hbits, hlisten, hdone, -⟩ := h.lastBit hconveys (by omega) hlen (by omega)
    rw [hleft, ← hbuild] at hbits
    rw [← hbuild] at hF
    refine .of_step hstep (delivers_of_validating hlisten (hdone ?_) (hbits.holdsFrameOf hF) hlen)
    rwa [show idx / 8 + 1 = s.build.multibytes p.length by omega]
  | succ n ih =>
    have hrest : idx + 1 + (n + 1) = 8 * s.build.multibytes p.length := by omega
    rcases Nat.lt_or_ge (idx % 8) 7 with hlt | hge
    · obtain ⟨t, hstep, hbuild, hdecoding⟩ := h.nextBit hconveys (by omega) hlt
      exact .of_step hstep (ih hdecoding (hbuild ▸ hconveys) (hbuild ▸ hrest))
    · obtain ⟨t, hstep, hbuild, -, -, -, hmore⟩ := h.lastBit hconveys (by omega) hlen (by omega)
      have hbefore : (idx / 8 + 1 + 1) * s.build.F ≤ s.build.multibytes p.length * s.build.F :=
        Nat.mul_le_mul_right _ (by omega)
      have hend := frame_lt_header_add_payload_add_multibyte (one_le_F_of_legal h.listening.legal) p.length
      rw [Build.headerBytes] at hend
      rw [Nat.succ_mul] at hbefore
      exact .of_step hstep (ih (hmore (by omega)) (hbuild ▸ hconveys) (hbuild ▸ hrest))

/-! ### SYNCING (43_sync_calibration.md R507, R508) -/

/-- A receiver about to test signature Window `idx` of the Frame of `p`: it hears what it does not hold of that Window,
and the rest of the Frame. -/
structure Synchronizing (s : State) (p : List Byte) (idx : Nat) : Prop where
  listening : Listening s (bytesOfWindow ((signatureWindow s.build).drop s.wfill) ++ wireFrom s.build p (idx + 1))
  rxst : s.rxst = .syncing
  held : s.wbuf.take s.wfill = (signatureWindow s.build).take s.wfill
  rwidx : s.rwidx.toNat = idx

section
variable {s : State} {p : List Byte} {idx : Nat}

/-- The Window is read, and it passes. -/
theorem Synchronizing.hears (h : Synchronizing s p idx) (hconveys : Conveys s.build) :
    step s = .next (syncWindow (signatureWindow s.build) (afterWindow s))
      ∧ Listening (afterWindow s) (wireFrom s.build p (idx + 1))
      ∧ sigCheck s.build s.nfSyncEn (signatureWindow s.build) = true := by
  have hlisten := h.listening
  obtain ⟨hcnt, hwindow, hrest⟩ := hlisten.window (length_encodeWindow ..) h.held
  refine ⟨?_, hrest, by rw [hlisten.nfSyncEn]; exact hconveys.signature⟩
  rw [hlisten.step_eq, ← engineStep_receive hlisten.busy hlisten.curop,
    engineStep_syncing hlisten.busy hlisten.curop h.rxst, withWindow_enough _ hcnt, hwindow]

/-- Before the eighth the receiver goes on to the next. -/
theorem Synchronizing.nextSignature (h : Synchronizing s p idx) (hconveys : Conveys s.build) (hlt : idx < 7) :
    ∃ t, step s = .next t ∧ t.build = s.build ∧ Synchronizing t p (idx + 1) := by
  obtain ⟨hstep, hrest, hpass⟩ := h.hears hconveys
  have hF := one_le_F_of_legal h.listening.legal
  have htwo := two_le_multibytes hF p.length
  have hrwidx : s.rwidx.toNat < 7 := h.rwidx.trans_lt hlt
  rw [syncWindow_of_pass (s := afterWindow s) hpass hrwidx] at hstep
  rw [wireFrom_eq_append (by omega), wireWindow_of_signature hF (by omega)] at hrest
  exact ⟨_, hstep, rfl, { hrest with }, h.rxst, rfl, (rwidx_succ_toNat hrwidx).trans (congrArg (· + 1) h.rwidx)⟩

/-- The eighth signature Window synchronizes the receiver and leaves the signature's bits in FB. -/
theorem Synchronizing.lastSignature (h : Synchronizing s p 7) (hconveys : Conveys s.build) :
    ∃ t, step s = .next t ∧ t.build = s.build ∧ Decoding t p 8 := by
  obtain ⟨hstep, hrest, hpass⟩ := h.hears hconveys
  have hF := one_le_F_of_legal h.listening.legal
  rw [syncWindow_of_last (s := afterWindow s) hpass h.rwidx] at hstep
  refine ⟨_, hstep, rfl, { hrest with }, .inl rfl, rfl, (Nat.one_mul _).symm, rfl, rfl, Memory.wf_ofBytes _, le_rfl,
    fun a j hj => ?_⟩
  change ((Memory.ofBytes (List.replicate s.build.F 0xFF)).read a).getLsbD j
    = (((sentFrame s.build p).read a).getLsbD j && decide (8 * (a / s.build.F) + j < 8))
  rw [read_signature]
  rcases Nat.lt_or_ge a s.build.F with hsig | hbehind
  · rw [if_pos hsig, read_sentFrame hF, frameByte_signature hsig, Nat.div_eq_of_lt hsig, decide_eq_true (by omega),
      Bool.and_true]
  · have hmultibyte := Nat.div_pos hbehind hF
    rw [if_neg hbehind.not_gt, decide_eq_false (by omega), Bool.and_false]
    exact BitVec.getLsbD_zero

end

/-- From a signature Window on, the Frame is delivered. -/
theorem delivers_of_synchronizing {n : Nat} {s : State} {p : List Byte} {idx : Nat} (h : Synchronizing s p idx)
    (hconveys : Conveys s.build) (hlen : p.length ≤ 255) (hleft : idx + n = 7) : Delivers p s := by
  induction n generalizing s idx with
  | zero =>
    obtain rfl : idx = 7 := hleft
    obtain ⟨t, hstep, hbuild, hdecoding⟩ := h.lastSignature hconveys
    have htwo := two_le_multibytes (one_le_F_of_legal h.listening.legal) p.length
    rw [← hbuild] at htwo hconveys
    exact .of_step hstep
      (delivers_of_decoding (n := 8 * t.build.multibytes p.length - 9) hdecoding hconveys hlen (by omega))
  | succ n ih =>
    obtain ⟨t, hstep, hbuild, hnext⟩ := h.nextSignature hconveys (by omega)
    exact .of_step hstep (ih hnext (hbuild ▸ hconveys) (by omega))

/-! ### SCANNING (R653) -/

/-- The signature's first Sample is every carrier at its peak (42_bit_codec.md R455). -/
theorem sampleAbs_signature {b : Build} (h : b.legal = true) :
    sampleAbs ((signatureWindow b).getD 0 0) = b.F * b.encAmp := by
  obtain ⟨-, -, -, hpeak⟩ := encodeIsExact b (List.replicate b.F true) h List.length_replicate
  rw [sampleAbs, signatureWindow, hpeak, List.count_replicate_self, ← Int.natCast_mul, Int.natAbs_natCast, Nat.mul_comm]

theorem bytesOfWindow_eq_append {w : Window} (h : 0 < w.length) :
    bytesOfWindow w = bytesOfSample (w.getD 0 0) ++ bytesOfWindow (w.drop 1) := by
  cases w with
  | nil => cases h
  | cons v w => rfl

theorem take_one_eq {w : Window} (h : 0 < w.length) : w.take 1 = [w.getD 0 0] := by
  cases w with
  | nil => cases h
  | cons v w => rfl

theorem take_one_set {w : Window} (h : 0 < w.length) (v : Sample) : (w.set 0 v).take 1 = [v] := by
  cases w with
  | nil => cases h
  | cons u w => rfl

/-- A receiver in SCANNING that hears a Sample takes it and hears what follows it. -/
theorem Listening.sample {s : State} {v : Sample} {bytes : List Byte} (h : Listening s (bytesOfSample v ++ bytes))
    (hst : s.rxst = .scanning) :
    step s = .next (scanSample (s.rxs.oldest s.build.rxsBytes Config.sampleBytes) (afterSample s))
      ∧ scannedSample s = v ∧ Listening (afterSample s) bytes := by
  have hcnt := h.cnt_eq
  have holdest := h.oldest_eq (show (bytesOfSample v).length = Config.sampleBytes from rfl)
  refine ⟨h.step_eq.trans (receiveStep_of_scanning hst ?_), ?_, { h with contents := h.contents_advance rfl }⟩
  · rw [hcnt, List.length_append]
    exact Nat.le_add_right 2 _
  · rw [scannedSample, holdest]
    exact sampleOfBytes_bytesOfSample v

/-- The trigger holds the signature's first Sample as Sample 0 of its first Window (43_sync_calibration.md R503). -/
theorem synchronizing_of_trigger {s : State} {p : List Byte} (h : Listening s (wireFrom s.build p 0))
    (hst : s.rxst = .scanning) (hwbuf : s.wbuf.length = s.build.N)
    (hloud : s.thr.toNat < s.build.F * s.build.encAmp) :
    ∃ t, step s = .next t ∧ t.build = s.build ∧ Synchronizing t p 0 := by
  have hF := one_le_F_of_legal h.legal
  have hN := one_le_N_of_legal h.legal
  have hsig : 0 < (signatureWindow s.build).length := hN.trans_eq (length_encodeWindow ..).symm
  have hlisten := h
  rw [wireFrom_eq_append (Nat.zero_le _), wireWindow_of_signature hF (by decide), bytesOfWindow_eq_append hsig,
    List.append_assoc] at hlisten
  obtain ⟨hstep, hsample, hrest⟩ := hlisten.sample hst
  rw [scanSample_of_loud (by rwa [hsample, sampleAbs_signature h.legal]), hsample] at hstep
  refine ⟨_, hstep, rfl, { hrest with }, rfl, ?_, rfl⟩
  exact (take_one_set (hN.trans_eq hwbuf.symm) _).trans (take_one_eq hsig).symm

/-- From SCANNING on, behind any silence, the Frame is delivered. -/
theorem delivers_of_scanning {zeros : Nat} {s : State} {p : List Byte}
    (h : Listening s (List.replicate (2 * zeros) 0 ++ wireFrom s.build p 0)) (hst : s.rxst = .scanning)
    (hwbuf : s.wbuf.length = s.build.N) (hconveys : Conveys s.build)
    (hloud : s.thr.toNat < s.build.F * s.build.encAmp) (hlen : p.length ≤ 255) : Delivers p s := by
  induction zeros generalizing s with
  | zero =>
    obtain ⟨t, hstep, hbuild, hsync⟩ := synchronizing_of_trigger h hst hwbuf hloud
    exact .of_step hstep (delivers_of_synchronizing hsync (hbuild ▸ hconveys) hlen (Nat.zero_add 7))
  | succ zeros ih =>
    have hsilence : List.replicate (2 * (zeros + 1)) (0 : Byte) = bytesOfSample 0 ++ List.replicate (2 * zeros) 0 := rfl
    rw [hsilence, List.append_assoc] at h
    obtain ⟨hstep, hsample, hrest⟩ := h.sample hst
    rw [scanSample_of_quiet (by rw [hsample]; exact Nat.zero_le _)] at hstep
    exact .of_step hstep (ih (s := afterSample s) hrest hst hwbuf hconveys hloud)

/-! ### A single carrier (42_bit_codec.md R461) -/

/-- A lone carrier that the signature's Window lifts over the threshold is decoded: a set bit sends that Window again, a
clear bit the silent one. -/
theorem conveys_of_single_carrier {b : Build} (h : b.legal = true) (hF : b.F = 1)
    (hsig : sigCheck b false (signatureWindow b) = true) : Conveys b := by
  refine ⟨hsig, fun bits hlen => ?_⟩
  obtain ⟨bit, rfl⟩ := List.length_eq_one_iff.mp (hlen.trans hF)
  cases bit with
  | false =>
    have hsilent : encodeWindow b [false] = silentWindow b := encodeWindow_of_clear fun c hc => by
      obtain rfl : c = 0 := by omega
      rfl
    have hzero (n : Nat) (_ : 0 < n) : (silentWindow b).getD n 0 = 0 := by simp [silentWindow]
    rw [hsilent, decodeMultibit_of_powerless (power_eq_zero (taperedSample_eq_zero h hzero)), hF]
    rfl
  | true =>
    obtain ⟨-, -, -, -, -, -, hratios, -⟩ := b.legal_iff.mp h
    obtain ⟨-, -, -, -, hdq, -⟩ := b.legalRatios_iff.mp hratios
    obtain ⟨htest, -⟩ := sigCheck_iff.mp hsig
    have hpos : 0 < power b (signatureWindow b) (carrierBin b 0) :=
      carrierPowers_pos htest _ (List.mem_map_of_mem (List.mem_range.mpr hF.ge))
    have hones : encodeWindow b [true] = signatureWindow b := by rw [signatureWindow, hF]; rfl
    have hset : b.dp * b.dp * (carrierPowers b (signatureWindow b)).getD 0 0
        < b.dq * b.dq * power b (signatureWindow b) (carrierBin b 0) := by
      rw [getD_carrierPowers _ hF.ge, carrierBin]
      exact Nat.mul_lt_mul_of_pos_right (Nat.mul_self_lt_mul_self hdq) hpos
    rw [hones, decodeMultibit, hF]
    exact congrArg (fun bit : Bool => [bit]) (decide_eq_true hset)

/-! ### How strong a bin can be (42_bit_codec.md R452, R458) -/

/-- The magnitudes of a Window's tapered Samples, summed (42_bit_codec.md R458). -/
def taperedMagnitude (b : Build) (w : Window) : Nat :=
  ((List.range b.N).map fun n => (taperedSample b w n).natAbs).sum

/-- ROM entry `j` as a complex number (42_bit_codec.md R452, R458). -/
noncomputable def twiddle (b : Build) (j : Nat) : ℂ := ⟨b.cosAt j, b.sinAt j⟩

/-- Bin `k` of a Window's transform (42_bit_codec.md R458). -/
noncomputable def transform (b : Build) (w : Window) (k : Nat) : ℂ :=
  ∑ n ∈ Finset.range b.N, (taperedSample b w n : ℂ) * twiddle b (k * n % b.N)

theorem re_transform (b : Build) (w : Window) (k : Nat) : (transform b w k).re = binReal b w k := by
  change _ = ((∑ n ∈ Finset.range b.N, taperedSample b w n * b.cosAt (k * n % b.N) : Int) : ℝ)
  simp [transform, twiddle]

theorem im_transform (b : Build) (w : Window) (k : Nat) : (transform b w k).im = -binImag b w k := by
  change _ = -((-∑ n ∈ Finset.range b.N, taperedSample b w n * b.sinAt (k * n % b.N) : Int) : ℝ)
  simp [transform, twiddle]

/-- Power is the transform's squared magnitude. -/
theorem power_eq_norm_sq (b : Build) (w : Window) (k : Nat) : (power b w k : ℝ) = ‖transform b w k‖ ^ 2 := by
  rw [Complex.sq_norm, Complex.normSq_apply, re_transform, im_transform, power]
  simp [Nat.cast_natAbs, sq]

theorem abs_sub_le_of_isRha {x : ℝ} {r : ℤ} (h : IsRha x r) : |(r : ℝ) - x| ≤ 1 / 2 := by
  obtain ⟨hhigh, hlow⟩ := isRha_iff.mp h
  push_cast at hhigh hlow
  rw [abs_le]
  constructor
  · rcases hlow with h | ⟨-, h⟩ <;> linarith
  · rcases hhigh with h | ⟨-, h⟩ <;> linarith

/-- A twiddle of a legal build lies within 1 of TW_ONE times a point of the unit circle (42_bit_codec.md R452). -/
theorem norm_twiddle_le {b : Build} (h : b.legal = true) {j : Nat} (hj : j < b.N) : ‖twiddle b j‖ ≤ 32768 := by
  obtain ⟨-, -, -, -, hformula, -⟩ := b.legal_iff.mp h
  obtain ⟨hcos, hsin⟩ := hformula j hj
  generalize 2 * Real.pi * j / b.N = θ at hcos hsin
  have hc := abs_sub_le_of_isRha hcos
  have hs := abs_sub_le_of_isRha hsin
  have hexact : ‖(Config.twOne : ℂ) * Complex.exp (θ * Complex.I)‖ = 32767 := by
    rw [norm_mul, Complex.norm_exp_ofReal_mul_I, Complex.norm_natCast, mul_one]
    norm_num [Config.twOne]
  have hround : ‖twiddle b j - Config.twOne * Complex.exp (θ * Complex.I)‖ ≤ 1 :=
    calc _ ≤ |(b.cosAt j : ℝ) - Config.twOne * Real.cos θ| + |(b.sinAt j : ℝ) - Config.twOne * Real.sin θ| := by
          simpa [twiddle] using
            Complex.norm_le_abs_re_add_abs_im (twiddle b j - Config.twOne * Complex.exp (θ * Complex.I))
      _ ≤ 1 := by linarith
  linarith [norm_le_norm_add_norm_sub' (twiddle b j) (Config.twOne * Complex.exp (θ * Complex.I))]

/-- No bin of a legal build exceeds what it would be with every tapered Sample in phase. -/
theorem power_le_of_legal {b : Build} (h : b.legal = true) (w : Window) (k : Nat) :
    power b w k ≤ (32768 * taperedMagnitude b w) ^ 2 := by
  have hN : 0 < b.N := one_le_N_of_legal h
  have hnorm : ‖transform b w k‖ ≤ 32768 * taperedMagnitude b w := by
    change _ ≤ (32768 : ℝ) * ((∑ n ∈ Finset.range b.N, (taperedSample b w n).natAbs : Nat) : ℝ)
    rw [Nat.cast_sum, Finset.mul_sum]
    refine norm_sum_le_of_le _ fun n _ => ?_
    rw [norm_mul, mul_comm, Complex.norm_intCast, Nat.cast_natAbs, Int.cast_abs]
    exact mul_le_mul_of_nonneg_right (norm_twiddle_le h (Nat.mod_lt _ hN)) (abs_nonneg _)
  have hsq := pow_le_pow_left₀ (norm_nonneg _) hnorm 2
  rw [← power_eq_norm_sq] at hsq
  exact_mod_cast hsq

theorem windowMax_le_of_legal {b : Build} (h : b.legal = true) (w : Window) :
    windowMax b w ≤ (32768 * taperedMagnitude b w) ^ 2 := by
  obtain ⟨k, -, hmax⟩ := exists_power_eq_windowMax h w
  rw [hmax]
  exact power_le_of_legal h w k

/-! ### The reference build -/

/-- The reference build with any stream capacities and any digest, none of which the codec reads. -/
def referenceWith (rxsBytes txsBytes : Nat) (digest : DigestFn) : Build :=
  { referenceBuild with rxsBytes := rxsBytes, txsBytes := txsBytes, digest := digest }

/-- The signature's carrier passes CarrierTest against any power a bin could have (43_sync_calibration.md R505). -/
theorem signature_exceeds_every_bin :
    3 * 3 * (32768 * taperedMagnitude referenceBuild (signatureWindow referenceBuild)) ^ 2
      < 5 * 5 * power referenceBuild (signatureWindow referenceBuild) 2 := by decide +kernel

theorem conveys_referenceWith {r t : Nat} {d : DigestFn} (h : (referenceWith r t d).legal = true) :
    Conveys (referenceWith r t d) := by
  refine conveys_of_single_carrier h rfl (sigCheck_iff.mpr ⟨carrierTest_iff.mpr fun c hc => ?_, .inl rfl⟩)
  obtain rfl : c = 0 := Nat.lt_one_iff.mp hc
  exact (Nat.mul_le_mul_left _ (windowMax_le_of_legal h _)).trans_lt signature_exceeds_every_bin

/-- Settles O50: the issue, and then the phases of the receiver, silence first. -/
theorem roundTripDeliversThePayload : Obligations.RoundTripDeliversThePayload := by
  rintro s p zeros hbuild hlegal ⟨-, -, -, -, -, hwbuf, -⟩ hop hidle hsync hdec hst hthr hlen hschedule hcontents
  have hissue : step s = .next { s with schedule := [], busy := true, curop := .receive } :=
    (step_of_cmdWrite hlegal rfl hschedule).trans
      (receiveIssueOnlyStartsTheCommand { s with schedule := [] } hidle hop)
  have hconveys : Conveys s.build := by
    rw [hbuild] at hlegal ⊢
    exact conveys_referenceWith hlegal
  have hloud : s.thr.toNat < s.build.F * s.build.encAmp := by
    rw [hthr, hbuild]
    exact (by decide : 2048 < 1 * 16383)
  rw [wireBytes_eq] at hcontents
  exact Delivers.of_step hissue
    (delivers_of_scanning ⟨hlegal, rfl, rfl, rfl, hsync, hdec, hcontents⟩ hst hwbuf hconveys hloud hlen)

end Sys2Proof.Machine

/-! The statements of 60_exceptions.md: what a bus write and one turn of each agent can do, said once, and from that the
errors of a write to CMD, OVERLAP, BUSERR, PORTERR, and what each agent may change. -/

namespace Sys2Proof.Machine

/-! ### A write to CMD (R705, R707, R709, R710) -/

/-- What a command's issue does to the state, once it is accepted (R705). -/
def issueCommand : Instr → State → State
  | .transmit size => issueTransmit size
  | .receive => issueReceive

theorem exec_eq_acceptCommand (i : Instr) (s : State) : exec i s = .next (acceptCommand (issueCommand i) s) := by
  cases i with
  | transmit size => rfl
  | receive => rfl

theorem exec_of_busy {s : State} (i : Instr) (hbusy : s.busy = true) : exec i s = .next (raiseOverlap s) := by
  rw [exec_eq_acceptCommand, acceptCommand, if_pos hbusy]

theorem exec_of_unavailable {s : State} (i : Instr) (hidle : s.busy = false) (hop : s.operational = false) :
    exec i s = .next (refuseCommand .notOperational s) := by
  rw [exec_eq_acceptCommand, acceptCommand, if_neg (ne_true_of_eq_false hidle), if_neg (ne_true_of_eq_false hop)]

theorem cmdWrite_of_decode {v : Word} {i : Instr} (h : decode v = .ok i) (s : State) : cmdWrite v s = exec i s := by
  rw [cmdWrite, h]

theorem cmdWrite_of_illegal {v : Word} (h : legal v = false) (s : State) :
    cmdWrite v s = .next (illegalCommand s) := by
  unfold cmdWrite
  split
  case h_1 i hdecode => exact absurd (legal_iff v |>.mpr ⟨i, hdecode⟩) (ne_true_of_eq_false h)
  case h_2 => rfl

theorem cmdWrite_of_busy {s : State} (v : Word) (hbusy : s.busy = true) : cmdWrite v s = .next (raiseOverlap s) := by
  cases hlegal : legal v with
  | true =>
    obtain ⟨i, hdecode⟩ := (legal_iff v).mp hlegal
    rw [cmdWrite_of_decode hdecode, exec_of_busy i hbusy]
  | false => rw [cmdWrite_of_illegal hlegal, illegalCommand, if_pos hbusy]

theorem busWrite_cmd (v : Word) (s : State) : busWrite 32 0x008#12 v s = cmdWrite v s :=
  busWrite_of_target (r := .cmd) rfl v s

theorem busWrite_ctrl (v : Word) (s : State) : busWrite 32 0x000#12 v s = .next (ctrlWrite v s) :=
  busWrite_of_target (r := .ctrl) rfl v s

/-- Settles O5: a legal word is the encoding of the command it decodes to, whose write `step_of_cmdWrite` steps. -/
theorem stepRunsTheDecodedCommand : Obligations.StepRunsTheDecodedCommand := by
  intro s w i rest hlegal hschedule hdecode
  obtain ⟨hwf, rfl⟩ := (decodeAndEncodeAgree w i).mp hdecode
  exact step_of_cmdWrite hlegal hwf hschedule

/-- Settles O13: the illegal words are those that R323's formula (`legalWordsAreTheRulesFormula`) leaves out. -/
theorem illegalWordWritesOnlyResult : Obligations.IllegalWordWritesOnlyResult := by
  have hillegal {v : Word} (h : ¬ (v &&& 0xFFFF00F0#32 = 0#32
      ∧ (v.extractLsb' 0 4 = 1#4 ∨ (v.extractLsb' 0 4 = 2#4 ∧ v.extractLsb' 8 8 = 0#8)))) : legal v = false :=
    eq_false_of_ne_true fun hlegal => h ((legalWordsAreTheRulesFormula v).mp hlegal)
  refine ⟨fun s v hidle hlegal => ?_, rfl, fun v hreserved => hillegal fun ⟨hzero, _⟩ => hreserved hzero,
    fun v htransmit hreceive => hillegal ?_, fun v hop hsize => hillegal ?_, by decide⟩
  · rw [busWrite_cmd, cmdWrite_of_illegal hlegal, illegalCommand, if_neg (ne_true_of_eq_false hidle), refuseCommand]
  · rintro ⟨-, h | ⟨h, -⟩⟩
    · exact htransmit h
    · exact hreceive h
  · rintro ⟨-, h | ⟨-, h⟩⟩
    · rw [hop] at h
      exact absurd h (by decide)
    · exact hsize h

/-! ### What a bus write can do (R705, R721) -/

/-- What a write of `v` to a register can lead to, with the conditions under which it does (R705, 20_memory.md R206). -/
inductive RegisterWriteTo (v : Word) (s : State) : Register → State → Prop where
  | overlap {r : Register} : r = .cmd ∨ r = .ctrl → s.busy = true → RegisterWriteTo v s r (raiseOverlap s)
  | policies : s.busy = false → RegisterWriteTo v s .ctrl { s with
      nfSyncEn := v.getLsbD 0, nfDecEn := v.getLsbD 1, adaptEn := v.getLsbD 2, thr := baseThreshold s.build }
  | status : RegisterWriteTo v s .status { s with overlap := s.overlap && !v.getLsbD 2 }
  | illegal : s.busy = false → legal v = false → RegisterWriteTo v s .cmd (refuseCommand .illegalCmd s)
  | unavailable : s.busy = false → s.operational = false →
      RegisterWriteTo v s .cmd (refuseCommand .notOperational s)
  | issue (i : Instr) : s.busy = false → s.operational = true → decode v = .ok i →
      RegisterWriteTo v s .cmd (issueCommand i s)
  | txbuf (j : Nat) : RegisterWriteTo v s (.txbuf j) { s with txbuf := storeWord j v s.txbuf }
  | readOnly {r : Register} : r.readOnly = true → RegisterWriteTo v s r s

theorem ctrlWrite_registerWriteTo (v : Word) (s : State) : RegisterWriteTo v s .ctrl (ctrlWrite v s) := by
  cases hbusy : s.busy with
  | true =>
    rw [ctrlWrite, if_pos hbusy]
    exact .overlap (.inr rfl) hbusy
  | false =>
    rw [ctrlWrite_of_idle hbusy]
    exact .policies hbusy

theorem cmdWrite_registerWriteTo (v : Word) (s : State) :
    ∃ t, cmdWrite v s = .next t ∧ RegisterWriteTo v s .cmd t := by
  cases hlegal : legal v with
  | true =>
    obtain ⟨i, hdecode⟩ := (legal_iff v).mp hlegal
    rw [cmdWrite_of_decode hdecode, exec_eq_acceptCommand]
    refine ⟨_, rfl, ?_⟩
    rcases acceptCommand_cases (issueCommand i) s with ⟨hbusy, h⟩ | ⟨hidle, hop, h⟩ | ⟨hidle, hop, h⟩ <;> rw [h]
    · exact .overlap (.inl rfl) hbusy
    · exact .unavailable hidle hop
    · exact .issue i hidle hop hdecode
  | false =>
    refine ⟨_, cmdWrite_of_illegal hlegal s, ?_⟩
    unfold illegalCommand
    split
    case isTrue hbusy => exact .overlap (.inl rfl) hbusy
    case isFalse hidle => exact .illegal (eq_false_of_ne_true hidle) hlegal

theorem writeRegister_registerWriteTo (v : Word) (s : State) (r : Register) :
    ∃ t, writeRegister v s r = .next t ∧ RegisterWriteTo v s r t := by
  cases r with
  | ctrl => exact ⟨_, rfl, ctrlWrite_registerWriteTo v s⟩
  | status => exact ⟨_, rfl, statusWrite_eq v s ▸ .status⟩
  | cmd => exact cmdWrite_registerWriteTo v s
  | txbuf j => exact ⟨_, rfl, .txbuf j⟩
  | _ => exact ⟨s, rfl, .readOnly rfl⟩

/-- A bus write raises BUSERR where it reaches no register, and otherwise has the register's effect (20_memory.md
R206). -/
theorem busWrite_cases (width : Nat) (off : Offset) (v : Word) (s : State) :
    (busTarget width off = none ∧ busWrite width off v s = .next (logFault (.busErr off .write) s))
      ∨ ∃ r t, busTarget width off = some r ∧ busWrite width off v s = .next t ∧ RegisterWriteTo v s r t := by
  cases htarget : busTarget width off with
  | none => exact .inl ⟨rfl, by rw [busWrite, htarget]⟩
  | some r =>
    obtain ⟨t, hwrite, hto⟩ := writeRegister_registerWriteTo v s r
    exact .inr ⟨r, t, rfl, (busWrite_of_target htarget v s).trans hwrite, hto⟩

theorem RegisterWriteTo.faultLog_eq {v : Word} {s t : State} {r : Register} (h : RegisterWriteTo v s r t) :
    t.faultLog = s.faultLog := by
  cases h with
  | issue i => cases i <;> rfl
  | _ => rfl

/-! ### What each agent may change (R721) -/

/-- From `s` to `t` only fields that a HOST write may change differ (20_memory.md R209). -/
def HostWriteFrame (s t : State) : Prop :=
  t = { s with
    nfSyncEn := t.nfSyncEn, nfDecEn := t.nfDecEn, adaptEn := t.adaptEn, thr := t.thr, overlap := t.overlap
    txbuf := t.txbuf, rcode := t.rcode, rsize := t.rsize, busy := t.busy, curop := t.curop
    tfb := t.tfb, tnw := t.tnw, tidx := t.tidx, faultLog := t.faultLog }

/-- From `s` to `t` only fields that the ENGINE may change differ. -/
def EngineFrame (s t : State) : Prop :=
  t = { s with
    txs := t.txs, rxs := t.rxs, wbuf := t.wbuf, wfill := t.wfill, cal := t.cal, rxst := t.rxst
    rwidx := t.rwidx, fb := t.fb, rcvd := t.rcvd, tidx := t.tidx, rcode := t.rcode, rsize := t.rsize
    busy := t.busy, curop := t.curop, sigrej := t.sigrej, thr := t.thr, vtrig := t.vtrig }

theorem EngineFrame.faultLog_eq {s t : State} (h : EngineFrame s t) : t.faultLog = s.faultLog := by
  rw [EngineFrame] at h
  rw [h]

theorem RegisterWriteTo.hostWriteFrame {v : Word} {s t : State} {r : Register} (h : RegisterWriteTo v s r t) :
    HostWriteFrame s t := by
  cases h with
  | issue i => cases i <;> rfl
  | _ => rfl

theorem busWrite_hostWriteFrame {width : Nat} {off : Offset} {v : Word} {s t : State}
    (h : busWrite width off v s = .next t) : HostWriteFrame s t := by
  rcases busWrite_cases width off v s with ⟨-, hwrite⟩ | ⟨r, t', -, hwrite, hto⟩ <;>
    obtain rfl := Host.Outcome.next.inj (hwrite.symm.trans h)
  · rfl
  · exact hto.hostWriteFrame

theorem ReceiveTo.engineFrame {s t : State} (h : ReceiveTo s t) : EngineFrame s t := by
  cases h <;> rfl

theorem receiveStep_engineFrame {s t : State} (h : receiveStep s = .next t) : EngineFrame s t := by
  rcases Nat.lt_or_ge s.rxs.cnt (receiveNeed s) with hshort | henough
  · obtain rfl := Host.Outcome.next.inj ((receiveStep_of_short hshort).symm.trans h)
    rfl
  · obtain ⟨t', hstep, hto⟩ := receiveStep_of_enough henough
    obtain rfl := Host.Outcome.next.inj (hstep.symm.trans h)
    exact hto.engineFrame

theorem emitWindow_engineFrame (s : State) : EngineFrame s (emitWindow s) := by
  rcases emitWindow_cases s with ⟨-, h⟩ | ⟨-, -, h⟩ | ⟨-, -, h⟩ <;> rw [h] <;> rfl

theorem engineStep_engineFrame {s t : State} (h : engineStep s = .next t) : EngineFrame s t := by
  rcases engineStep_cases s with ⟨-, hs⟩ | ⟨-, -, hs⟩ | ⟨-, -, hs⟩ <;> rw [hs] at h
  · obtain rfl := Host.Outcome.next.inj h
    rfl
  · obtain rfl := Host.Outcome.next.inj h
    exact emitWindow_engineFrame s
  · exact receiveStep_engineFrame h

/-- AUDIO_IN of a length that is not whole Samples (R708). -/
theorem audioIn_of_odd {data : List Byte} {s : State} (hop : s.operational = true) (hodd : data.length % 2 ≠ 0) :
    audioIn data s = logFault (.portErr .capture data.length) s := by
  rw [audioIn, if_pos hop]
  exact if_neg hodd

theorem audioIn_of_even {data : List Byte} {s : State} (hop : s.operational = true) (heven : data.length % 2 = 0) :
    audioIn data s = { s with rxs := s.rxs.write s.build.rxsBytes data } := by
  rw [audioIn, if_pos hop]
  exact if_pos heven

theorem audioIn_of_unavailable {s : State} (data : List Byte) (hop : s.operational = false) : audioIn data s = s := by
  rw [audioIn, if_neg (ne_true_of_eq_false hop)]

theorem audioOut_of_unavailable {s : State} (n : Nat) (hop : s.operational = false) : audioOut n s = .next s := by
  rw [audioOut, if_neg (ne_true_of_eq_false hop)]

/-- CAPTURE's turn: it passes without an audio device, stores whole Samples in RXS, or raises PORTERR. -/
theorem audioIn_cases (data : List Byte) (s : State) :
    audioIn data s = s ∨ audioIn data s = { s with rxs := s.rxs.write s.build.rxsBytes data }
      ∨ audioIn data s = logFault (.portErr .capture data.length) s := by
  by_cases hop : s.operational = true
  · exact .inr ((eq_or_ne (data.length % 2) 0).imp (audioIn_of_even hop) (audioIn_of_odd hop))
  · exact .inl (audioIn_of_unavailable data (eq_false_of_ne_true hop))

/-- PLAYBACK's turn: it passes without an audio device, takes the oldest bytes of TXS, or raises PORTERR. -/
theorem audioOut_cases (n : Nat) (s : State) :
    audioOut n s = .next s
      ∨ (∃ reply, audioOut n s = .next (giveBack reply
          { s with txs := s.txs.advance s.build.txsBytes (min n s.txs.cnt) }))
      ∨ audioOut n s = .next (logFault (.portErr .playback n) s) := by
  by_cases hop : s.operational = true
  · exact .inr ((eq_or_ne (n % 2) 0).imp (fun heven => ⟨_, audioOut_of_even hop heven⟩) (audioOut_of_odd hop))
  · exact .inl (audioOut_of_unavailable n (eq_false_of_ne_true hop))

/-- Settles O56: the frames of the two audio turns, of a read and a write, and of the ENGINE's step. -/
theorem agentsKeepToTheirState : Obligations.AgentsKeepToTheirState := by
  refine ⟨fun s t data h => ?_, fun s t n h => ?_, fun s t width off h => ?_, fun s t width off v h => ?_,
    fun s t h => ?_⟩
  · obtain rfl := Host.Outcome.next.inj h
    rcases audioIn_cases data s with hin | hin | hin
    · rw [hin]
    · rw [hin]
    · rw [hin, logFault]
  · rcases audioOut_cases n s with hout | ⟨reply, hout⟩ | hout <;>
      (obtain rfl := Host.Outcome.next.inj (hout.symm.trans h)
       exact ⟨rfl, rfl⟩)
  · obtain rfl := Host.Outcome.next.inj h
    rw [busRead_eq]
  · exact busWrite_hostWriteFrame h
  · exact engineStep_engineFrame h

/-- Settles O25: the audio turns of odd length, one by one. -/
theorem portErrorsAreLoggedAndChangeNothing : Obligations.PortErrorsAreLoggedAndChangeNothing :=
  ⟨fun _ _ hop hodd => congrArg Host.Outcome.next (audioIn_of_odd hop hodd),
    fun _ _ hop hodd => audioOut_of_odd hop hodd⟩

/-- Settles O26: the turns without an enabled step, one by one. -/
theorem agentsWithoutAStepChangeNothing : Obligations.AgentsWithoutAStepChangeNothing :=
  ⟨fun _ data hop => congrArg Host.Outcome.next (audioIn_of_unavailable data hop),
    fun _ n hop => audioOut_of_unavailable n hop, fun _ hidle => if_neg (ne_true_of_eq_false hidle)⟩

/-! ### What one step can do -/

/-- A step performs one turn: the schedule's next, or the ENGINE's (00_scope.md R8). -/
theorem perform_of_step {s t : State} (h : step s = .next t) :
    ∃ a rest, (s.schedule = a :: rest ∨ a = .engine) ∧ perform a { s with schedule := rest } = .next t := by
  cases hlegal : s.build.legal with
  | false => rw [step_of_illegal hlegal] at h; cases h
  | true =>
    rw [step_of_legal hlegal] at h
    rcases takeTurn_cases s with ⟨-, hturn⟩ | ⟨a, rest, hschedule, hturn⟩ <;> rw [hturn] at h
    · exact ⟨.engine, s.schedule, .inr rfl, h⟩
    · exact ⟨a, rest, .inl hschedule, h⟩

/-- A turn keeps the fault log, or is a HOST or audio transaction that adds one entry (R706, R708, R725). -/
theorem perform_faultLog {a : Action} {s t : State} (h : perform a s = .next t) :
    t.faultLog = s.faultLog
      ∨ ((∃ r, t.faultLog = s.faultLog ++ [r]) ∧ a ≠ .engine ∧ ∀ ok, a ≠ .reset ok) := by
  cases a with
  | busRead width off =>
    obtain rfl := Host.Outcome.next.inj h
    unfold busRead
    split
    · exact .inl rfl
    · exact .inr ⟨⟨_, rfl⟩, nofun, nofun⟩
  | busWrite width off v =>
    rcases busWrite_cases width off v s with ⟨-, hwrite⟩ | ⟨r, t', -, hwrite, hto⟩ <;>
      obtain rfl := Host.Outcome.next.inj (hwrite.symm.trans h)
    · exact .inr ⟨⟨_, rfl⟩, nofun, nofun⟩
    · exact .inl hto.faultLog_eq
  | engine => exact .inl (engineStep_engineFrame h).faultLog_eq
  | audioIn data =>
    obtain rfl := Host.Outcome.next.inj h
    rcases audioIn_cases data s with hin | hin | hin <;> rw [hin]
    · exact .inl rfl
    · exact .inl rfl
    · exact .inr ⟨⟨_, rfl⟩, nofun, nofun⟩
  | audioOut n =>
    rcases audioOut_cases n s with hout | ⟨reply, hout⟩ | hout <;>
      obtain rfl := Host.Outcome.next.inj (hout.symm.trans h)
    · exact .inl rfl
    · exact .inl rfl
    · exact .inr ⟨⟨_, rfl⟩, nofun, nofun⟩
  | reset ok =>
    obtain rfl := Host.Outcome.next.inj h
    exact .inl rfl

/-- Settles O57: a step is one turn, and `perform_faultLog` says what a turn does to the log. -/
theorem faultLogOnlyGrows : Obligations.FaultLogOnlyGrows := by
  intro s t hstep
  obtain ⟨a, rest, hnext, hturn⟩ := perform_of_step hstep
  rcases perform_faultLog hturn with hsame | ⟨hmore, hengine, hreset⟩
  · exact ⟨.inl hsame, fun hchanged => absurd hsame hchanged⟩
  · exact ⟨.inr hmore, fun _ => ⟨a, rest, hnext.resolve_right hengine, hengine, hreset⟩⟩

/-! ### OVERLAP (R710) -/

/-- STATUS is at offset 0x004 only, and reached by 32-bit transactions only (10_state.md R110, R112). -/
theorem eq_of_busTarget_status {width : Nat} {off : Offset} (h : busTarget width off = some .status) :
    width = 32 ∧ off = 0x004#12 :=
  (offset_of_busTarget_low (i := 1) h rfl).imp_right BitVec.eq_of_toNat_eq

/-- A bus write clears OVERLAP only as a STATUS write with bit 2 = 1 (10_state.md R112). -/
theorem busWrite_overlap {width : Nat} {off : Offset} {v : Word} {s t : State} (hset : s.overlap = true)
    (h : busWrite width off v s = .next t) :
    t.overlap = true ∨ (width = 32 ∧ off = 0x004#12 ∧ v.getLsbD 2 = true) := by
  rcases busWrite_cases width off v s with ⟨-, hwrite⟩ | ⟨r, t', htarget, hwrite, hto⟩ <;>
    obtain rfl := Host.Outcome.next.inj (hwrite.symm.trans h)
  · exact .inl hset
  · cases hto with
    | overlap => exact .inl rfl
    | status =>
      obtain ⟨hwidth, hoff⟩ := eq_of_busTarget_status htarget
      cases hbit : v.getLsbD 2 with
      | true => exact .inr ⟨hwidth, hoff, rfl⟩
      | false => exact .inl (by simp [hset])
    | issue i => cases i <;> exact .inl hset
    | _ => exact .inl hset

/-- A reset apart, no turn changes OPERATIONAL, and only a HOST write changes OVERLAP (R721,
70_reset_and_hazards.md R802). -/
theorem perform_flags {a : Action} {s t : State} (h : perform a s = .next t) :
    (t.operational = s.operational ∧ (t.overlap = s.overlap ∨ ∃ width off v, a = .busWrite width off v))
      ∨ ∃ ok, a = .reset ok ∧ t.operational = ok := by
  obtain ⟨hcapture, hplayback, hread, hwrite, hengine⟩ := agentsKeepToTheirState
  cases a with
  | busRead width off =>
    rw [hread s t width off h]
    exact .inl ⟨rfl, .inl rfl⟩
  | busWrite width off v =>
    rw [hwrite s t width off v h]
    exact .inl ⟨rfl, .inr ⟨width, off, v, rfl⟩⟩
  | engine =>
    rw [hengine s t h]
    exact .inl ⟨rfl, .inl rfl⟩
  | audioIn data =>
    rw [hcapture s t data h]
    exact .inl ⟨rfl, .inl rfl⟩
  | audioOut n =>
    obtain ⟨hframe, -⟩ := hplayback s t n h
    rw [hframe]
    exact .inl ⟨rfl, .inl rfl⟩
  | reset ok =>
    obtain rfl := Host.Outcome.next.inj h
    exact .inr ⟨ok, rfl, rfl⟩

/-- Settles O12: a reset apart, only a HOST write reaches OVERLAP (`perform_flags`), and `busWrite_overlap` says how it
clears it. -/
theorem overlapIsStickyAndTheOnlyEffect : Obligations.OverlapIsStickyAndTheOnlyEffect := by
  refine ⟨fun s v hbusy => ⟨?_, ?_⟩, fun s i hbusy => exec_of_busy i hbusy, fun s t hset hstep => ?_⟩
  · rw [busWrite_cmd, cmdWrite_of_busy v hbusy, raiseOverlap]
  · rw [busWrite_ctrl, ctrlWrite, if_pos hbusy, raiseOverlap]
  · obtain ⟨a, rest, hnext, hturn⟩ := perform_of_step hstep
    rcases perform_flags hturn with ⟨-, hsame | ⟨width, off, v, rfl⟩⟩ | ⟨ok, rfl, -⟩
    · exact .inl (hsame.trans hset)
    · rcases busWrite_overlap (s := { s with schedule := rest }) hset hturn with hkept | ⟨rfl, rfl, hbit⟩
      · exact .inl hkept
      · exact .inr (.inl ⟨v, rest, hnext.resolve_right nofun, hbit⟩)
    · exact .inr (.inr ⟨ok, rest, hnext.resolve_right nofun⟩)

/-! ### NOT_OPERATIONAL (R709) -/

theorem ctrlWrite_ignoresOperational (v : Word) (s : State) (ok : Bool) :
    ctrlWrite v { s with operational := ok } = { ctrlWrite v s with operational := ok } := by
  unfold ctrlWrite
  split <;> rfl

/-- No register but CMD has a write effect that depends on OPERATIONAL (R704, R705). -/
theorem writeRegister_ignoresOperational {v : Word} {s t : State} {r : Register} (hr : r ≠ .cmd)
    (h : writeRegister v s r = .next t) (ok : Bool) :
    writeRegister v { s with operational := ok } r = .next { t with operational := ok } := by
  cases r with
  | cmd => exact absurd rfl hr
  | ctrl =>
    obtain rfl := Host.Outcome.next.inj h
    exact congrArg Host.Outcome.next (ctrlWrite_ignoresOperational v s ok)
  | status =>
    obtain rfl := Host.Outcome.next.inj h
    rw [writeRegister, statusWrite_eq, statusWrite_eq]
  | _ =>
    obtain rfl := Host.Outcome.next.inj h
    rfl

theorem busWrite_ignoresOperational {width : Nat} {off : Offset} {v : Word} {s t : State} (hoff : off ≠ 0x008#12)
    (h : busWrite width off v s = .next t) (ok : Bool) :
    busWrite width off v { s with operational := ok } = .next { t with operational := ok } := by
  cases htarget : busTarget width off with
  | none =>
    rw [busWrite, htarget] at h ⊢
    obtain rfl := Host.Outcome.next.inj h
    rfl
  | some r =>
    rw [busWrite_of_target htarget] at h ⊢
    refine writeRegister_ignoresOperational ?_ h ok
    rintro rfl
    obtain ⟨-, hcmd⟩ := eq_of_busTarget_cmd htarget
    exact hoff hcmd

theorem readRegister_ignoresOperational {r : Register} (hr : r ≠ .status) (s : State) (ok : Bool) :
    readRegister { s with operational := ok } r = readRegister s r := by
  cases r with
  | status => exact absurd rfl hr
  | _ => rfl

/-- STATUS without bit 1, which is OPERATIONAL (10_state.md R112). -/
theorem statusWord_and_not_two (s : State) : statusWord s &&& ~~~2#32 =
    0#18 ++ s.curop.code ++ 0#1 ++ s.rwidx ++ 0#1 ++ s.rxst.code ++ 0#1
      ++ BitVec.ofBool s.overlap ++ 0#1 ++ BitVec.ofBool s.busy := by
  change statusWord s &&& (BitVec.allOnes 30 ++ 0#1 ++ BitVec.allOnes 1) = _
  rw [statusWord, BitVec.and_append, BitVec.and_append]
  simp only [BitVec.and_allOnes, BitVec.and_zero]

/-- Settles O14: without a device a legal word is refused, only a reset changes OPERATIONAL, and no other register's
effect or value depends on it. -/
theorem notOperationalRefusesEveryCommand : Obligations.NotOperationalRefusesEveryCommand := by
  refine ⟨fun s v hidle hlegal hop => ?_, rfl, fun s t hstep hchanged => ?_,
    fun s t ok off v hoff h => busWrite_ignoresOperational hoff h ok,
    fun s ok r hr => readRegister_ignoresOperational hr s ok, fun s ok => ?_⟩
  · obtain ⟨i, hdecode⟩ := (legal_iff v).mp hlegal
    rw [busWrite_cmd, cmdWrite_of_decode hdecode, exec_of_unavailable i hidle hop, refuseCommand]
  · obtain ⟨a, rest, hnext, hturn⟩ := perform_of_step hstep
    obtain ⟨ok, rfl, hsampled⟩ := (perform_flags hturn).resolve_left fun ⟨hsame, _⟩ => hchanged hsame
    exact ⟨ok, rest, hnext.resolve_right nofun, hsampled⟩
  · exact (statusWord_and_not_two _).trans (statusWord_and_not_two s).symm

/-! ### BUSERR (R706) -/

/-- The mapped offsets are the multiples of 4 below 0x030 and from 0x100 to 0x2FF (20_memory.md R205 to R207). -/
theorem registerAt_eq_none_iff {off : Offset} : registerAt off = none ↔
    off.toNat % 4 ≠ 0 ∨ (0x030 ≤ off.toNat ∧ off.toNat ≤ 0x0FF) ∨ 0x300 ≤ off.toNat := by
  unfold registerAt
  dsimp only
  split_ifs with haligned hlow htxbuf hrxbuf
  · simp [haligned]
  · rw [List.getElem?_eq_none_iff, show lowRegisters.length = 12 from rfl]
    omega
  · exact iff_of_false nofun (by omega)
  · exact iff_of_false nofun (by omega)
  · exact iff_of_true rfl (by omega)

theorem busTarget_eq_none_iff {width : Nat} {off : Offset} : busTarget width off = none ↔
    width ≠ 32 ∨ off.toNat % 4 ≠ 0 ∨ (0x030 ≤ off.toNat ∧ off.toNat ≤ 0x0FF) ∨ 0x300 ≤ off.toNat := by
  rw [← registerAt_eq_none_iff, busTarget]
  split <;> simp [*]

/-- Settles O15: the transactions R706 lists are those that reach no register, and no register's effect is logged. -/
theorem busErrorsAreLoggedAndChangeNothing : Obligations.BusErrorsAreLoggedAndChangeNothing := by
  refine ⟨fun s width off v h => ?_, fun s off v haligned hmapped => ?_⟩
  · have hnone := busTarget_eq_none_iff.mpr h
    rw [busRead, busWrite, hnone]
    exact ⟨rfl, rfl⟩
  · have htarget : busTarget 32 off ≠ none := by
      rw [Ne, busTarget_eq_none_iff]
      omega
    obtain ⟨r, hr⟩ := Option.ne_none_iff_exists'.mp htarget
    obtain ⟨t, hwrite, hto⟩ := writeRegister_registerWriteTo v s r
    exact ⟨by rw [busRead, hr]; rfl, t, (busWrite_of_target hr v s).trans hwrite, hto.faultLog_eq⟩

/-! ### A CTRL write (R705, 10_state.md R111) -/

/-- CTRL after a write to an idle LMC: the three policy bits of the word written. -/
theorem ctrlWord_ctrlWrite {v : Word} {s : State} (h : s.busy = false) : ctrlWord (ctrlWrite v s) = v &&& 7#32 := by
  rw [ctrlWrite_of_idle h, ctrlWord]
  change _ = v &&& (0#29 ++ 1#1 ++ 1#1 ++ 1#1)
  apply BitVec.eq_of_getLsbD_eq
  intro i _
  simp only [BitVec.getLsbD_append, BitVec.getLsbD_and]
  rcases i with _ | _ | _ | i <;> simp

/-- Settles O19: the threshold reloaded is the build's TRIGGER_LEVEL, which fits THR in a legal build. -/
theorem ctrlWriteSetsThePoliciesAndReloadsThr : Obligations.CtrlWriteSetsThePoliciesAndReloadsThr := by
  intro s v hlegal hidle
  refine ⟨ctrlWrite v s, busWrite_ctrl v s, ?_, ?_, ctrlWord_ctrlWrite hidle⟩
  · rw [ctrlWrite_of_idle hidle]
  · rw [ctrlWrite_of_idle hidle]
    exact toNat_baseThreshold_eq hlegal

end Sys2Proof.Machine

/-! The statements of 70_reset_and_hazards.md: reset (R801), runs without end and the fairness premises (R841), and the
end of a run (R850). -/

namespace Sys2Proof.Machine

/-! ### Reset (R801, R802) -/

/-- Settles O58: the step is the reset's turn, and the threshold it loads is the build's TRIGGER_LEVEL. -/
theorem resetSetsEveryPieceOfState : Obligations.ResetSetsEveryPieceOfState := by
  intro s ok rest hlegal hschedule
  have hread : ∀ a, Memory.read [] a = 0 := fun _ => rfl
  exact ⟨resetEvent ok { s with schedule := rest }, (stepTakesTheNextTurn s hlegal).1 _ _ hschedule,
    rfl, rfl, rfl, rfl, rfl, rfl, rfl, rfl, rfl, hread, rfl, rfl, hread, rfl, rfl, hread, rfl, rfl, rfl, rfl, rfl,
    hread, rfl, toNat_baseThreshold_eq hlegal, rfl, rfl, hread, rfl, rfl, rfl, rfl, rfl, rfl⟩

/-- Settles O59: group by group; the streams and the threshold rest on the bounds of a legal build. -/
theorem invariantHoldsAfterReset : Obligations.InvariantHoldsAfterReset := fun b ok hlegal =>
  ⟨streamsInv_start hlegal ok, ⟨rfl, rfl, rfl, rfl, rfl, rfl⟩, commandInv_start b ok,
    ⟨fun _ => rfl, Nat.zero_le _, (toNat_baseThreshold_of_legal hlegal).trans (by decide)⟩,
    fun _ => ⟨rfl, rfl, rfl, rfl⟩, receiverInv_start b ok⟩

/-! ### One turn of a run, and after the end of it (R850) -/

/-- A run performs its turns one by one, each with nothing else listed. -/
theorem Run.perform_turn (r : Run) (k : Nat) :
    perform (r.turn k) { r.state k with schedule := [] } = .next (r.state (k + 1)) := by
  have htaken := r.taken k
  cases hlegal : (r.state k).build.legal with
  | false => rw [step_of_illegal (s := offer (r.turn k) (r.state k)) hlegal] at htaken; cases htaken
  | true => exact ((stepTakesTheNextTurn (offer (r.turn k) (r.state k)) hlegal).1 _ _ rfl).symm.trans htaken

/-- From `s` to `t` only TXS, what was given back, the fault log and the turns listed differ. -/
def PlaybackFrame (s t : State) : Prop :=
  t = { s with txs := t.txs, replies := t.replies, faultLog := t.faultLog, schedule := t.schedule }

theorem PlaybackFrame.trans {s t u : State} (hst : PlaybackFrame s t) (htu : PlaybackFrame t u) :
    PlaybackFrame s u := by
  rw [PlaybackFrame] at *
  rw [htu, hst]

/-- With no command in progress, a turn of the ENGINE or of PLAYBACK keeps to PLAYBACK's state (60_exceptions.md R721,
R723). -/
theorem perform_playbackFrame {a : Action} {s t : State} (hidle : s.busy = false) (hhost : a.agent ≠ some .host)
    (hcapture : a.agent ≠ some .capture) (hreset : ∀ ok, a ≠ .reset ok) (h : perform a s = .next t) :
    PlaybackFrame s t := by
  cases a with
  | busRead | busWrite => exact absurd rfl hhost
  | audioIn => exact absurd rfl hcapture
  | reset ok => exact absurd rfl (hreset ok)
  | engine =>
    obtain ⟨-, -, hengine⟩ := agentsWithoutAStepChangeNothing
    obtain rfl := Host.Outcome.next.inj ((hengine s hidle).symm.trans h)
    rfl
  | audioOut n =>
    rcases audioOut_cases n s with hout | ⟨reply, hout⟩ | hout <;>
      obtain rfl := Host.Outcome.next.inj (hout.symm.trans h) <;> rfl

/-- Settles O54: the turns left are the ENGINE's, which has no step, and PLAYBACK's. -/
theorem afterTheEndOnlyPlaybackMoves : Obligations.AfterTheEndOnlyPlaybackMoves := by
  rintro r k i ⟨hidle, hover⟩ hreset hle
  suffices h : PlaybackFrame (r.state k) (r.state i) from h
  induction i, hle using Nat.le_induction with
  | base => rfl
  | succ i hle ih =>
    obtain ⟨-, hhost, hcapture⟩ := hover i hle
    have hstill : (r.state i).busy = false := by rw [ih]; exact hidle
    exact ih.trans (perform_playbackFrame (s := { r.state i with schedule := [] }) hstill hhost hcapture (hreset i)
      (r.perform_turn i))

/-! ### A command in progress -/

/-- The command `op` is in progress on a legal build, in a state that meets the invariant. -/
structure InProgress (op : CurOp) (s : State) : Prop where
  legal : s.build.legal = true
  inv : Inv s
  busy : s.busy = true
  curop : s.curop = op

section
variable {op : CurOp} {a : Action} {s t : State}

theorem InProgress.operational (h : InProgress op s) : s.operational = true := by
  obtain ⟨-, -, ⟨-, hop, -⟩, -⟩ := h.inv
  exact hop h.busy

theorem InProgress.not_finished (h : InProgress op s) : ¬ Finished s :=
  fun ⟨hidle, _⟩ => absurd h.busy (ne_true_of_eq_false hidle)

theorem InProgress.offered (h : InProgress op s) : InProgress op { s with schedule := [] } :=
  ⟨h.legal, h.inv, h.busy, h.curop⟩

/-- A turn after which a command is still in progress keeps all of it. -/
theorem InProgress.afterTurn (h : InProgress op s) (hturn : perform a s = .next t) (hbusy : t.busy = true)
    (hcurop : t.curop = op) : InProgress op t := by
  obtain ⟨t', hnext, hto⟩ := perform_turnTo a s
  obtain rfl := Host.Outcome.next.inj (hnext.symm.trans hturn)
  exact ⟨hto.build_eq ▸ h.legal, h.inv.turnTo h.legal hto, hbusy, hcurop⟩

/-- From `s` to `t` the command in progress and the transmitter's position are the same, of RXS only what CAPTURE wrote
to it differs, and of TXS only what PLAYBACK took from it. -/
structure KeepsCommand (s : State) (a : Action) (t : State) : Prop where
  busy : t.busy = s.busy
  curop : t.curop = s.curop
  tnw : t.tnw = s.tnw
  tidx : t.tidx = s.tidx
  rxs : t.rxs = s.rxs ∨ ∃ data, a = .audioIn data ∧ t.rxs = s.rxs.write s.build.rxsBytes data
  txs : t.txs = s.txs ∨ ∃ n, t.txs = s.txs.advance s.build.txsBytes n

/-- While a command is in progress, a HOST write neither ends it nor starts another (60_exceptions.md R705, R710). -/
theorem RegisterWriteTo.keepsCommand {v : Word} {r : Register} (hbusy : s.busy = true) (h : RegisterWriteTo v s r t) :
    KeepsCommand s a t := by
  cases h with
  | overlap | status | txbuf | readOnly => exact ⟨rfl, rfl, rfl, rfl, .inl rfl, .inl rfl⟩
  | policies hidle | illegal hidle | unavailable hidle | issue _ hidle => simp [hbusy] at hidle

/-- While a command is in progress, only the ENGINE and a reset move it on (60_exceptions.md R721). -/
theorem perform_keepsCommand (hbusy : s.busy = true) (hengine : a ≠ .engine) (hreset : ∀ ok, a ≠ .reset ok)
    (h : perform a s = .next t) : KeepsCommand s a t := by
  cases a with
  | engine => exact absurd rfl hengine
  | reset ok => exact absurd rfl (hreset ok)
  | busRead width off =>
    obtain rfl := Host.Outcome.next.inj h
    rw [busRead_eq]
    exact ⟨rfl, rfl, rfl, rfl, .inl rfl, .inl rfl⟩
  | busWrite width off v =>
    rcases busWrite_cases width off v s with ⟨-, hwrite⟩ | ⟨r, t', -, hwrite, hto⟩ <;>
      obtain rfl := Host.Outcome.next.inj (hwrite.symm.trans h)
    · exact ⟨rfl, rfl, rfl, rfl, .inl rfl, .inl rfl⟩
    · exact hto.keepsCommand hbusy
  | audioIn data =>
    obtain rfl := Host.Outcome.next.inj h
    rcases audioIn_cases data s with hin | hin | hin <;> rw [hin]
    · exact ⟨rfl, rfl, rfl, rfl, .inl rfl, .inl rfl⟩
    · exact ⟨rfl, rfl, rfl, rfl, .inr ⟨data, rfl, rfl⟩, .inl rfl⟩
    · exact ⟨rfl, rfl, rfl, rfl, .inl rfl, .inl rfl⟩
  | audioOut n =>
    rcases audioOut_cases n s with hout | ⟨reply, hout⟩ | hout <;>
      obtain rfl := Host.Outcome.next.inj (hout.symm.trans h)
    · exact ⟨rfl, rfl, rfl, rfl, .inl rfl, .inl rfl⟩
    · exact ⟨rfl, rfl, rfl, rfl, .inl rfl, .inr ⟨_, rfl⟩⟩
    · exact ⟨rfl, rfl, rfl, rfl, .inl rfl, .inl rfl⟩

theorem InProgress.keeps (h : InProgress op s) (hturn : perform a s = .next t) (hkeeps : KeepsCommand s a t) :
    InProgress op t :=
  h.afterTurn hturn (hkeeps.busy.trans h.busy) (hkeeps.curop.trans h.curop)

end

/-! ### RECEIVE finishes (R841, 46_receiver.md R651, R652) -/

/-- RECEIVE has finished, with one of its result codes (46_receiver.md R651). -/
def Received (t : State) : Prop :=
  Finished t ∧ t.rcode ∈ [ResultCode.noDataYet, .delivered, .digestMismatch, .frameAborted]

/-- A micro-step of RECEIVE with the bytes it needs finishes the command or keeps it in progress. -/
theorem ReceiveTo.received_or_same {s t : State} (h : ReceiveTo s t) :
    Received t ∨ (t.busy = s.busy ∧ t.curop = s.curop) := by
  cases h with
  | abort | deliver | mismatch => exact .inl ⟨finished_finish _ _ _, by simp [abortFrame]⟩
  | _ => exact .inr ⟨rfl, rfl⟩

/-- A micro-step of RECEIVE finishes the command or consumes bytes of RXS (46_receiver.md R652). -/
theorem InProgress.receives {s t : State} (h : InProgress .receive s) (hturn : perform .engine s = .next t) :
    Received t ∨ (InProgress .receive t ∧ t.rxs.cnt < s.rxs.cnt) := by
  have hstep : receiveStep s = .next t := (engineStep_receive h.busy h.curop).symm.trans hturn
  rcases Nat.lt_or_ge s.rxs.cnt (receiveNeed s) with hshort | henough
  · obtain rfl := Host.Outcome.next.inj ((receiveStep_of_short hshort).symm.trans hstep)
    exact .inl ⟨finished_finish _ _ _, by simp⟩
  · obtain ⟨t', hnext, hto⟩ := receiveStep_of_enough henough
    obtain rfl := Host.Outcome.next.inj (hnext.symm.trans hstep)
    refine hto.received_or_same.imp_right fun ⟨hbusy, hcurop⟩ => ?_
    have hstill := hbusy.trans h.busy
    refine ⟨h.afterTurn hturn hstill (hcurop.trans h.curop), ?_⟩
    obtain ⟨hcnt, hval⟩ := hto.consumes_or_finishes.resolve_right (ne_false_of_eq_true hstill)
    obtain ⟨-, -, -, -, -, hreceiver⟩ := h.inv
    have hN := two_le_half_N_of_legal h.legal
    have hpos := receiveNeed_pos (by omega) hreceiver hval
    omega

/-- With no turn listed, a RECEIVE that finds `n` bytes in RXS finishes within `n + 1` steps. -/
theorem receive_finishes {n : Nat} {s : State} (h : InProgress .receive s) (hschedule : s.schedule = [])
    (hcnt : s.rxs.cnt ≤ n) : ∃ k t, k ≤ n + 1 ∧ steps k s = .next t ∧ Received t := by
  induction n using Nat.strong_induction_on generalizing s with
  | _ n ih =>
    obtain ⟨t, hturn, -⟩ := perform_turnTo .engine s
    have hstep : step s = .next t := ((stepTakesTheNextTurn s h.legal).2 hschedule).trans hturn
    rcases h.receives hturn with hdone | ⟨hgoing, hless⟩
    · exact ⟨1, t, by omega, steps_of_step hstep, hdone⟩
    · have hlisted : t.schedule = [] := by
        rw [(engineStep_engineFrame hturn : t = _)]
        exact hschedule
      obtain ⟨k, u, hk, hsteps, hdone⟩ := ih t.rxs.cnt (by omega) hgoing hlisted le_rfl
      exact ⟨k + 1, u, by omega, (steps_of_step hstep).trans hsteps, hdone⟩

/-- Settles O49: each micro-step consumes bytes or finishes, so the bytes RXS holds bound the steps. -/
theorem receiveFinishes : Obligations.ReceiveFinishes := by
  intro s hlegal hinv hbusy hcurop hschedule
  obtain ⟨k, t, hk, hsteps, ⟨hidle, hnone⟩, hcode⟩ := receive_finishes ⟨hlegal, hinv, hbusy, hcurop⟩ hschedule le_rfl
  exact ⟨k, t, by omega, hsteps, hidle, hnone, hcode⟩

/-! ### Runs without end (R841) -/

/-- A sequence of numbers that does not rise from `k` on is constant from some later time on. -/
theorem exists_settled {f : Nat → Nat} {k : Nat} (h : ∀ i, k ≤ i → f (i + 1) ≤ f i) :
    ∃ m, k ≤ m ∧ ∀ i, m ≤ i → f i = f m := by
  have hanti : Antitone fun j => f (k + j) := antitone_nat_of_succ_le fun j => h (k + j) (Nat.le_add_right k j)
  obtain ⟨n, hn⟩ := WellFoundedLT.antitone_chain_condition hanti
  refine ⟨k + n, Nat.le_add_right k n, fun i hi => ?_⟩
  have hsame := hn (i - k) (by omega)
  rwa [Nat.add_sub_cancel' (by omega), eq_comm] at hsame

/-- Where `P` holds at first, and at each time it goes on or `Q` holds next, it goes on for ever or `Q` ends it. -/
theorem exists_first_end {P Q : Nat → Prop} (hstart : P 0) (hnext : ∀ k, P k → P (k + 1) ∨ Q (k + 1))
    (hnot : ¬ ∀ k, P k) : ∃ k, (∀ i, i < k → P i) ∧ Q k := by
  classical
  have hex : ∃ k, ¬ P k := not_forall.mp hnot
  have hbefore : ∀ i, i < Nat.find hex → P i := fun i hi => not_not.mp (Nat.find_min hex hi)
  obtain ⟨k, hk⟩ : ∃ k, Nat.find hex = k + 1 :=
    Nat.exists_eq_succ_of_ne_zero fun hzero => (hzero ▸ Nat.find_spec hex) hstart
  refine ⟨Nat.find hex, hbefore, ?_⟩
  have hlast := hnext k (hbefore k (by omega))
  rw [← hk] at hlast
  exact hlast.resolve_left (Nat.find_spec hex)

theorem agent_eq_engine_iff {a : Action} : a.agent = some .engine ↔ a = .engine := by
  cases a <;> simp [Action.agent]

/-- Under weak fairness an ENGINE with a step from time `k` on takes one (R841, premise 1). -/
theorem Run.WeaklyFair.exists_engine_turn {r : Run} (h : r.WeaklyFair) {k : Nat}
    (henabled : ∀ i, k ≤ i → engineEnabled (r.state i) = true) : ∃ i, k ≤ i ∧ r.turn i = .engine := by
  obtain ⟨i, hi, hagent⟩ := h .engine k henabled
  exact ⟨i, hi, agent_eq_engine_iff.mp hagent⟩

/-- An AUDIO_IN of no bytes leaves the count of RXS (41_sample_stream.md R411). -/
theorem cnt_write_nil (cap : Nat) (s : Stream) : (s.write cap []).cnt = s.cnt := by
  simp [Stream.write, overflowDiscard]

/-- A turn of a run in which RECEIVE is in progress: it finishes, or RXS loses bytes to the ENGINE and gains them from
CAPTURE only. -/
theorem InProgress.receiveTurn {a : Action} {s t : State} (h : InProgress .receive s) (hreset : ∀ ok, a ≠ .reset ok)
    (hturn : perform a s = .next t) : Received t ∨ (InProgress .receive t ∧ (a = .engine → t.rxs.cnt < s.rxs.cnt)
      ∧ ((∀ data, a = .audioIn data → data = []) → t.rxs.cnt ≤ s.rxs.cnt)) := by
  by_cases hengine : a = .engine
  · subst hengine
    exact (h.receives hturn).imp_right fun ⟨hgoing, hless⟩ => ⟨hgoing, fun _ => hless, fun _ => hless.le⟩
  · have hkeeps := perform_keepsCommand h.busy hengine hreset hturn
    refine .inr ⟨h.keeps hturn hkeeps, fun heq => absurd heq hengine, fun hnone => ?_⟩
    rcases hkeeps.rxs with hsame | ⟨data, ha, hwrite⟩
    · rw [hsame]
    · rw [hwrite, hnone data ha, cnt_write_nil]

/-- Were RECEIVE in progress for ever, the count of RXS would settle once CAPTURE has stopped, and the ENGINE's next
turn would lower it (R841, premises 1 and 3). -/
theorem Run.not_receiving_for_ever {r : Run} (hfair : r.WeaklyFair) (hfinite : r.CaptureIsFinite) (hreset : r.NoReset) :
    ¬ ∀ k, InProgress .receive (r.state k) := by
  intro hever
  have hgoing := fun k => ((hever k).offered.receiveTurn (hreset k) (r.perform_turn k)).resolve_left
    fun ⟨hfinished, _⟩ => (hever (k + 1)).not_finished hfinished
  obtain ⟨quiet, hquiet⟩ := hfinite
  obtain ⟨m, -, hsettled⟩ := exists_settled (f := fun i => (r.state i).rxs.cnt) (k := quiet) fun i hi => by
    obtain ⟨-, -, hkept⟩ := hgoing i
    exact hkept fun data => hquiet i data hi fun j _ => (hever j).busy
  obtain ⟨i, hi, hengine⟩ := hfair.exists_engine_turn (k := m) fun i _ => by
    simp [engineEnabled, (hever i).busy, (hever i).curop]
  obtain ⟨-, hconsumes, -⟩ := hgoing i
  have hless : (r.state (i + 1)).rxs.cnt < (r.state i).rxs.cnt := hconsumes hengine
  have hhere := hsettled i hi
  have hnext := hsettled (i + 1) (by omega)
  omega

/-- Settles O52: RECEIVE is not in progress for ever, and only its finish ends it. -/
theorem fairReceiveFinishes : Obligations.FairReceiveFinishes := by
  intro r hlegal hinv hbusy hcurop hfair hfinite hreset
  obtain ⟨k, hbefore, ⟨hidle, hnone⟩, hcode⟩ : ∃ k, (∀ i, i < k → InProgress .receive (r.state i))
      ∧ Received (r.state k) := by
    refine exists_first_end ⟨hlegal, hinv, hbusy, hcurop⟩ (fun k h => ?_)
      (Run.not_receiving_for_ever hfair hfinite hreset)
    exact (h.offered.receiveTurn (hreset k) (r.perform_turn k)).symm.imp_left And.left
  exact ⟨k, fun i hi => (hbefore i hi).busy, hidle, hnone, hcode⟩

/-! ### TRANSMIT finishes (R841, 45_transmitter.md R605) -/

/-- TRANSMIT of `n` data Windows has finished with all of them and the gap written (45_transmitter.md R603). -/
def Transmitted (n : Nat) (t : State) : Prop :=
  Finished t ∧ t.rcode = .txDone ∧ t.rsize = 0 ∧ t.tidx = n + 1

theorem engineEnabled_transmit_iff {s : State} (hbusy : s.busy = true) (hcurop : s.curop = .transmit) :
    engineEnabled s = true ↔ s.tidx ≤ s.tnw ∧ s.build.windowBytes ≤ s.txs.free s.build.txsBytes := by
  simp [engineEnabled, hbusy, hcurop]

theorem InProgress.tidx_le {s : State} (h : InProgress .transmit s) : s.tidx ≤ s.tnw := by
  obtain ⟨-, -, ⟨-, -, -, -, -, hsending⟩, -⟩ := h.inv
  exact hsending h.curop

/-- In the turn `a` from `s` to `t` the transmitter holds: TXS gains no bytes, and an ENGINE that takes the turn has no
enabled step. -/
def Holds (s : State) (a : Action) (t : State) : Prop :=
  t.txs.cnt ≤ s.txs.cnt ∧ (a = .engine → engineEnabled s = false)

/-- A turn of a run in which TRANSMIT is in progress: it finishes, sends a Window, or the transmitter holds. -/
theorem InProgress.transmitTurn {a : Action} {s t : State} (h : InProgress .transmit s) (hreset : ∀ ok, a ≠ .reset ok)
    (hturn : perform a s = .next t) : Transmitted s.tnw t ∨ (InProgress .transmit t ∧ t.tnw = s.tnw
      ∧ (t.tidx = s.tidx + 1 ∨ (t.tidx = s.tidx ∧ Holds s a t))) := by
  by_cases hengine : a = .engine
  · subst hengine
    obtain rfl := Host.Outcome.next.inj ((engineStep_transmit h.busy h.curop).symm.trans hturn)
    rcases emitWindow_cases s with ⟨hhold, heq⟩ | ⟨-, -, heq⟩ | ⟨hlast, -, heq⟩
    · have hdisabled : engineEnabled s = false := by
        rw [← Bool.not_eq_true, engineEnabled_transmit_iff h.busy h.curop]
        omega
      rw [heq]
      exact .inr ⟨h, rfl, .inr ⟨rfl, le_rfl, fun _ => hdisabled⟩⟩
    · have hgoing : InProgress .transmit (emitWindow s) :=
        h.afterTurn hturn (by rw [heq]; exact h.busy) (by rw [heq]; exact h.curop)
      exact .inr ⟨hgoing, by rw [heq], .inl (by rw [heq])⟩
    · rw [heq]
      exact .inl ⟨finished_finish _ _ _, rfl, rfl, congrArg (· + 1) hlast⟩
  · have hkeeps := perform_keepsCommand h.busy hengine hreset hturn
    refine .inr ⟨h.keeps hturn hkeeps, hkeeps.tnw, .inr ⟨hkeeps.tidx, ?_, fun heq => absurd heq hengine⟩⟩
    rcases hkeeps.txs with hsame | ⟨n, hadvance⟩
    · rw [hsame]
    · rw [hadvance]
      exact Nat.sub_le _ _

/-- TXS of a legal build holds a Window (00_scope.md R11). -/
theorem windowBytes_le_txsBytes {b : Build} (h : b.legal = true) : b.windowBytes ≤ b.txsBytes := by
  obtain ⟨-, -, -, -, -, -, -, hstreams⟩ := b.legal_iff.mp h
  obtain ⟨-, -, -, hroom⟩ := b.legalStreams_iff.mp hstreams
  exact hroom

/-- A Sample or more read by PLAYBACK leaves TXS with fewer bytes, unless it held none (41_sample_stream.md R414). -/
theorem cnt_of_reading {n : Nat} {s t : State} (hop : s.operational = true) (hn : 2 ≤ n) (heven : n % 2 = 0)
    (hturn : perform (.audioOut n) s = .next t) : t.txs.cnt < s.txs.cnt ∨ s.txs.cnt = 0 := by
  obtain rfl := Host.Outcome.next.inj ((audioOut_of_even hop heven).symm.trans hturn)
  simp only [giveBack, Stream.advance]
  omega

/-- TIDX rises by 1 with every Window sent and never passes TNW, so a TRANSMIT in progress for ever holds in the end. -/
theorem Run.exists_holding {r : Run} (hreset : r.NoReset) (hever : ∀ k, InProgress .transmit (r.state k)) :
    ∃ m, ∀ i, m ≤ i → Holds (r.state i) (r.turn i) (r.state (i + 1)) := by
  have hgoing : ∀ k, (r.state (k + 1)).tnw = (r.state k).tnw ∧ ((r.state (k + 1)).tidx = (r.state k).tidx + 1
      ∨ ((r.state (k + 1)).tidx = (r.state k).tidx ∧ Holds (r.state k) (r.turn k) (r.state (k + 1)))) := by
    intro k
    rcases (hever k).offered.transmitTurn (hreset k) (r.perform_turn k) with ⟨hfinished, -⟩ | ⟨-, hgoing⟩
    · exact absurd hfinished (hever (k + 1)).not_finished
    · exact hgoing
  obtain ⟨m, -, hsettled⟩ := exists_settled (f := fun i => (r.state i).tnw - (r.state i).tidx) (k := 0) fun i _ => by
    obtain ⟨htnw, htidx | ⟨htidx, -⟩⟩ := hgoing i <;> omega
  refine ⟨m, fun i hi => ?_⟩
  obtain ⟨htnw, hsent | ⟨-, hholds⟩⟩ := hgoing i
  · have hhere := hsettled i hi
    have hnext := hsettled (i + 1) (by omega)
    have hbound := (hever (i + 1)).tidx_le
    omega
  · exact hholds

/-- While the transmitter holds, a PLAYBACK that keeps reading empties TXS (R841, premise 2). -/
theorem Run.exists_drained {r : Run} (hreading : r.PlaybackKeepsReading) (hop : ∀ k, (r.state k).operational = true)
    {m : Nat} (hholds : ∀ i, m ≤ i → Holds (r.state i) (r.turn i) (r.state (i + 1))) :
    ∃ n, m ≤ n ∧ ∀ i, n ≤ i → (r.state i).txs.cnt = 0 := by
  obtain ⟨n, hn, hsettled⟩ := exists_settled (f := fun i => (r.state i).txs.cnt) fun i hi => (hholds i hi).1
  refine ⟨n, hn, fun j hj => ?_⟩
  obtain ⟨i, len, hi, hturn, hlen, heven⟩ := hreading n
  have hread : (r.state (i + 1)).txs.cnt < (r.state i).txs.cnt ∨ (r.state i).txs.cnt = 0 :=
    cnt_of_reading (s := { r.state i with schedule := [] }) (hop i) hlen heven (hturn ▸ r.perform_turn i)
  have hthere := hsettled j hj
  have hhere := hsettled i hi
  have hnext := hsettled (i + 1) (by omega)
  omega

/-- Were TRANSMIT in progress for ever, the ENGINE would hold for ever beside an empty TXS, which has room for a Window
(R841, premises 1 and 2). -/
theorem Run.not_transmitting_for_ever {r : Run} (hfair : r.WeaklyFair) (hreading : r.PlaybackKeepsReading)
    (hreset : r.NoReset) : ¬ ∀ k, InProgress .transmit (r.state k) := by
  intro hever
  obtain ⟨m, hholds⟩ := Run.exists_holding hreset hever
  obtain ⟨n, hn, hempty⟩ := Run.exists_drained hreading (fun k => (hever k).operational) hholds
  have henabled : ∀ i, n ≤ i → engineEnabled (r.state i) = true := fun i hi => by
    rw [engineEnabled_transmit_iff (hever i).busy (hever i).curop, Stream.free, hempty i hi]
    exact ⟨(hever i).tidx_le, windowBytes_le_txsBytes (hever i).legal⟩
  obtain ⟨i, hi, hengine⟩ := hfair.exists_engine_turn henabled
  obtain ⟨-, hdisabled⟩ := hholds i (by omega)
  exact absurd (henabled i hi) (ne_true_of_eq_false (hdisabled hengine))

/-- Settles O51: TRANSMIT is not in progress for ever, and only the gap Window ends it. -/
theorem fairTransmitFinishes : Obligations.FairTransmitFinishes := by
  intro r hlegal hinv hbusy hcurop hfair hreading hreset
  obtain ⟨k, hbefore, ⟨hidle, hnone⟩, hcode, hsize, htidx⟩ : ∃ k, (∀ i, i < k → InProgress .transmit (r.state i)
      ∧ (r.state i).tnw = (r.state 0).tnw) ∧ Transmitted (r.state 0).tnw (r.state k) := by
    refine exists_first_end ⟨⟨hlegal, hinv, hbusy, hcurop⟩, rfl⟩ (fun k ⟨h, htnw⟩ => ?_)
      fun hever => Run.not_transmitting_for_ever hfair hreading hreset fun k => (hever k).1
    rcases h.offered.transmitTurn (hreset k) (r.perform_turn k) with hdone | ⟨hgoing, hsame, -⟩
    · exact .inr (htnw ▸ hdone)
    · exact .inl ⟨hgoing, hsame.trans htnw⟩
  exact ⟨k, fun i hi => (hbefore i hi).1.busy, hidle, hnone, hcode, hsize, htidx⟩

/-! ### A RECEIVE that hangs and a TRANSMIT that stays stuck (R841, 60_exceptions.md R725) -/

/-- The next state of an answer, or `s` where there is none. -/
def nextStateOr (s : State) : Result → State
  | .next t => t
  | .fault _ => s
  | .refused _ => s

/-- The state after the first `k` of the turns from `s` on. -/
def stateAfter (turn : Nat → Action) (s : State) : Nat → State
  | 0 => s
  | k + 1 => nextStateOr (stateAfter turn s k) (step (offer (turn k) (stateAfter turn s k)))

theorem step_stateAfter {s : State} (hlegal : s.build.legal = true) (turn : Nat → Action) (k : Nat) :
    (stateAfter turn s k).build.legal = true
      ∧ step (offer (turn k) (stateAfter turn s k)) = .next (stateAfter turn s (k + 1)) := by
  have hgoes {j : Nat} (h : (stateAfter turn s j).build.legal = true) :
      step (offer (turn j) (stateAfter turn s j)) = .next (stateAfter turn s (j + 1))
        ∧ (stateAfter turn s (j + 1)).build = (stateAfter turn s j).build := by
    obtain ⟨t, hstep, hbuild⟩ := noStepOfALegalBuildStops (offer (turn j) (stateAfter turn s j)) h
    rw [stateAfter, hstep]
    exact ⟨rfl, hbuild⟩
  have hstays : (stateAfter turn s k).build.legal = true := by
    induction k with
    | zero => exact hlegal
    | succ j ih => rw [(hgoes ih).2]; exact ih
  exact ⟨hstays, (hgoes hstays).1⟩

/-- The run from `s` that takes the turns, with a HOST whose program is over. -/
def runOf (turn : Nat → Action) (s : State) (hlegal : s.build.legal = true) : Run where
  state := stateAfter turn s
  turn := turn
  hostReady := fun _ => false
  taken := fun k => (step_stateAfter hlegal turn k).2

/-- In turn for ever: CAPTURE writes one zero Sample, the ENGINE steps, and PLAYBACK asks for `n` bytes. -/
def rounds (n k : Nat) : Action :=
  if k % 3 = 0 then .audioIn [0, 0] else if k % 3 = 1 then .engine else .audioOut n

theorem rounds_capture (n k : Nat) : rounds n (3 * k) = .audioIn [0, 0] := by simp [rounds]

theorem rounds_engine (n k : Nat) : rounds n (3 * k + 1) = .engine := by simp [rounds, Nat.add_mod]

theorem rounds_playback (n k : Nat) : rounds n (3 * k + 2) = .audioOut n := by simp [rounds, Nat.add_mod]

theorem rounds_cases (n k : Nat) :
    (k % 3 = 0 ∧ rounds n k = .audioIn [0, 0]) ∨ (k % 3 = 1 ∧ rounds n k = .engine)
      ∨ (k % 3 = 2 ∧ rounds n k = .audioOut n) := by
  unfold rounds
  split_ifs <;> simp <;> omega

section
variable {n : Nat} {s : State} {hlegal : s.build.legal = true}

/-- Every agent but the HOST, which is never ready, takes every third turn. -/
theorem weaklyFair_rounds : (runOf (rounds n) s hlegal).WeaklyFair := by
  intro g k henabled
  cases g with
  | host => exact absurd (henabled k le_rfl) Bool.false_ne_true
  | engine => exact ⟨3 * k + 1, by omega, congrArg Action.agent (rounds_engine n k)⟩
  | capture => exact ⟨3 * k, by omega, congrArg Action.agent (rounds_capture n k)⟩
  | playback => exact ⟨3 * k + 2, by omega, congrArg Action.agent (rounds_playback n k)⟩

theorem noReset_rounds : (runOf (rounds n) s hlegal).NoReset := by
  intro k ok (hreset : rounds n k = .reset ok)
  rcases rounds_cases n k with ⟨-, h⟩ | ⟨-, h⟩ | ⟨-, h⟩ <;> simp [h] at hreset

end

theorem referenceBuild_legal : referenceBuild.legal = true := by decide +kernel

/-! #### The hang -/

/-- A chunk that the capacity holds is in the stream once written (41_sample_stream.md R411). -/
theorem length_le_cnt_write {cap : Nat} {data : List Byte} (s : Stream) (h : data.length ≤ cap) :
    data.length ≤ (s.write cap data).cnt := by
  simp [Stream.write, Nat.sub_eq_zero_of_le h]

/-- RECEIVE is in progress and scans silence, in a clean run. -/
structure HearsSilence (s : State) : Prop extends InProgress .receive s where
  rxst : s.rxst = .scanning
  silent : Silent s
  clean : s.faultLog = []

theorem HearsSilence.capture {s : State} (h : HearsSilence s) :
    HearsSilence (audioIn [0, 0] s) ∧ 2 ≤ (audioIn [0, 0] s).rxs.cnt := by
  obtain ⟨⟨hrx, hpos⟩, -⟩ := capacities_of_legal h.legal
  obtain ⟨⟨hrxs, -⟩, -⟩ := h.inv
  have hin := audioIn_of_even (data := [0, 0]) h.operational rfl
  have hgoing : InProgress .receive (audioIn [0, 0] s) :=
    h.afterTurn (a := .audioIn [0, 0]) rfl (by rw [hin]; exact h.busy) (by rw [hin]; exact h.curop)
  rw [hin] at hgoing ⊢
  refine ⟨⟨hgoing, h.rxst, fun x hx => ?_, h.clean⟩, ?_⟩
  · rw [hrxs.contents_write hrx rfl] at hx
    exact (List.mem_append.mp (List.mem_of_mem_drop hx)).elim (h.silent x) (by simp)
  · exact length_le_cnt_write (data := [0, 0]) s.rxs (show 2 ≤ s.build.rxsBytes by omega)

theorem HearsSilence.engine {s t : State} (h : HearsSilence s) (hready : 2 ≤ s.rxs.cnt)
    (hturn : perform .engine s = .next t) : HearsSilence t := by
  have hquiet : sampleAbs (scannedSample s) ≤ s.thr.toNat := by
    rw [h.silent.scannedSample_eq hready]
    exact Nat.zero_le _
  have hstep : engineStep s = .next (afterSample s) := by
    rw [engineStep_receive h.busy h.curop, receiveStep_of_scanning h.rxst hready, scanSample_of_quiet hquiet]
  obtain rfl := Host.Outcome.next.inj (hstep.symm.trans hturn)
  exact ⟨h.afterTurn hturn h.busy h.curop, h.rxst, h.silent.afterSample, h.clean⟩

theorem HearsSilence.playback {s t : State} {n : Nat} (h : HearsSilence s) (heven : n % 2 = 0)
    (hturn : perform (.audioOut n) s = .next t) : HearsSilence t := by
  obtain rfl := Host.Outcome.next.inj ((audioOut_of_even h.operational heven).symm.trans hturn)
  exact ⟨h.afterTurn hturn h.busy h.curop, h.rxst, h.silent, h.clean⟩

/-- In every round CAPTURE leaves the ENGINE a Sample to scan, so RECEIVE never lacks data. -/
theorem HearsSilence.turn {s t : State} {n k : Nat} (h : HearsSilence s) (hready : k % 3 = 1 → 2 ≤ s.rxs.cnt)
    (heven : n % 2 = 0) (hturn : perform (rounds n k) s = .next t) :
    HearsSilence t ∧ ((k + 1) % 3 = 1 → 2 ≤ t.rxs.cnt) := by
  rcases rounds_cases n k with ⟨hk, hround⟩ | ⟨hk, hround⟩ | ⟨hk, hround⟩ <;> rw [hround] at hturn
  · obtain rfl := Host.Outcome.next.inj hturn
    exact h.capture.imp_right fun hcnt _ => hcnt
  · exact ⟨h.engine (hready hk) hturn, by omega⟩
  · exact ⟨h.playback heven hturn, by omega⟩

/-- RECEIVE, just issued after a reset. -/
def receiveIssued (b : Build) : State := issueReceive (State.start b true)

theorem hearsSilence_receiveIssued {b : Build} (hlegal : b.legal = true) : HearsSilence (receiveIssued b) where
  legal := hlegal
  inv := Inv.turnTo (s := State.start b true) hlegal (invariantHoldsAfterReset b true hlegal) (.issueReceive rfl rfl)
  busy := rfl
  curop := rfl
  rxst := rfl
  silent := fun _ hx => by cases hx
  clean := rfl

theorem hearsSilence_rounds {n : Nat} {s : State} (h : HearsSilence s) (heven : n % 2 = 0) (k : Nat) :
    HearsSilence ((runOf (rounds n) s h.legal).state k)
      ∧ (k % 3 = 1 → 2 ≤ ((runOf (rounds n) s h.legal).state k).rxs.cnt) := by
  induction k with
  | zero => exact ⟨h, by omega⟩
  | succ k ih =>
    obtain ⟨hnow, hready⟩ := ih
    exact HearsSilence.turn ⟨hnow.offered, hnow.rxst, hnow.silent, hnow.clean⟩ hready heven
      ((runOf (rounds n) s h.legal).perform_turn k)

/-! #### The stuck TRANSMIT -/

/-- TRANSMIT is in progress beside a TXS without room for a Window, in a clean run. -/
structure TransmitsIntoFull (s : State) : Prop extends InProgress .transmit s where
  full : s.txs.free s.build.txsBytes < s.build.windowBytes
  clean : s.faultLog = []

theorem TransmitsIntoFull.disabled {s : State} (h : TransmitsIntoFull s) : engineEnabled s = false := by
  have hfull := h.full
  rw [← Bool.not_eq_true, engineEnabled_transmit_iff h.busy h.curop]
  omega

/-- A round whose AUDIO_OUT asks for nothing leaves TXS as full as it was. -/
theorem TransmitsIntoFull.turn {s t : State} {k : Nat} (h : TransmitsIntoFull s)
    (hturn : perform (rounds 0 k) s = .next t) : TransmitsIntoFull t := by
  rcases rounds_cases 0 k with ⟨-, hround⟩ | ⟨-, hround⟩ | ⟨-, hround⟩ <;> rw [hround] at hturn
  · obtain rfl := Host.Outcome.next.inj ((congrArg _ (audioIn_of_even h.operational rfl)).symm.trans hturn)
    exact ⟨h.afterTurn hturn h.busy h.curop, h.full, h.clean⟩
  · have hhold : engineStep s = .next s := by
      rw [engineStep_transmit h.busy h.curop, emitWindow_of_full h.full]
    obtain rfl := Host.Outcome.next.inj (hhold.symm.trans hturn)
    exact h
  · obtain rfl := Host.Outcome.next.inj ((audioOut_of_even h.operational rfl).symm.trans hturn)
    refine ⟨h.afterTurn hturn h.busy h.curop, ?_, h.clean⟩
    simpa [giveBack, Stream.advance, Stream.free] using h.full

/-- The state after a reset, but with TXS full of silence. -/
def startWithFullTxs (b : Build) : State := { State.start b true with txs := ⟨[], 0, b.txsBytes⟩ }

theorem inv_startWithFullTxs {b : Build} (hlegal : b.legal = true) : Inv (startWithFullTxs b) := by
  obtain ⟨-, htx, hpos⟩ := capacities_of_legal hlegal
  obtain ⟨⟨hrxs, -⟩, hbuffers, hcommand, hthreshold, -, hreceiver⟩ := invariantHoldsAfterReset b true hlegal
  exact ⟨⟨hrxs, le_rfl, htx, hpos, rfl, rfl, rfl⟩, hbuffers, hcommand, hthreshold, nofun, hreceiver⟩

theorem transmitsIntoFull_issued {b : Build} (hlegal : b.legal = true) :
    TransmitsIntoFull (issueTransmit 0 (startWithFullTxs b)) where
  legal := hlegal
  inv := Inv.turnTo (s := startWithFullTxs b) hlegal (inv_startWithFullTxs hlegal)
    (.issueTransmit 0 rfl rfl (Nat.zero_le _))
  busy := rfl
  curop := rfl
  full := by
    have hN := one_le_N_of_legal hlegal
    have hfree : b.txsBytes - b.txsBytes < b.N * 2 := by omega
    exact hfree
  clean := rfl

theorem transmitsIntoFull_rounds {s : State} (h : TransmitsIntoFull s) (k : Nat) :
    TransmitsIntoFull ((runOf (rounds 0) s h.legal).state k) := by
  induction k with
  | zero => exact h
  | succ k ih =>
    exact TransmitsIntoFull.turn ⟨ih.offered, ih.full, ih.clean⟩ ((runOf (rounds 0) s h.legal).perform_turn k)

/-- Settles O53: rounds in which CAPTURE writes silence for ever, and rounds in which PLAYBACK asks for nothing of a
full TXS. -/
theorem hangAndStuckRunsExist : Obligations.HangAndStuckRunsExist := by
  have hhang := fun k => (hearsSilence_rounds (n := 2) (hearsSilence_receiveIssued referenceBuild_legal) rfl k).1
  have hstuck := transmitsIntoFull_rounds (transmitsIntoFull_issued referenceBuild_legal)
  constructor
  · exact ⟨_, (hhang 0).legal, (hhang 0).inv, weaklyFair_rounds,
      fun k => ⟨3 * k + 2, 2, by omega, rounds_playback 2 k, le_rfl, rfl⟩, noReset_rounds, fun k => (hhang k).clean,
      ⟨fun i _ => ⟨(hhang i).busy, (hhang i).curop⟩, fun i _ => ⟨3 * i + 1, by omega, rounds_engine 2 i⟩⟩,
      fun k => ⟨3 * k, [0, 0], by omega, rounds_capture 2 k, by simp⟩⟩
  · refine ⟨_, (hstuck 0).legal, (hstuck 0).inv, weaklyFair_rounds, noReset_rounds, fun k => (hstuck k).clean,
      fun i _ => ⟨(hstuck i).busy, (hstuck i).curop, (hstuck i).disabled⟩, fun k n hturn => ?_⟩
    change rounds 0 k = .audioOut n at hturn
    rcases rounds_cases 0 k with ⟨-, h⟩ | ⟨-, h⟩ | ⟨-, h⟩ <;> rw [h] at hturn <;> cases hturn
    rfl

end Sys2Proof.Machine
